-- ==== Sys2Proof/Word.lean ====
section
/-!
DEFINITION. The word types of CHIP8-CORE (spec/00_scope.md R5, R9): every value is an unsigned number of a fixed width.
-/

namespace Sys2Proof

/-- A `u4`: a register index, a key index or a row count (R71). -/
abbrev Nibble := BitVec 4

/-- A `u8`: a general register, a timer, a byte of memory (R5). -/
abbrev Byte := BitVec 8

/-- A `u12`: the address constant `nnn` (R71). -/
abbrev Addr := BitVec 12

/-- A `u16`: an instruction word, I, PC, SP, a stack entry (R5). -/
abbrev Word := BitVec 16

end Sys2Proof
end

