-- ==== Sys2Proof/Syntax.lean ====
section
/-!
DEFINITION. The instructions: one constructor per row of spec/opcode_table.json, the 34 operations and UNKNOWN
(spec/00_scope.md R2, spec/30_encoding.md R74). Operands are the fields of R71; a field the table calls 'ignored'
(R76, and y of SHR and SHL, R137, R139) is kept under the name `z`, so that no bit of a word is lost (log 12).
-/

namespace Sys2Proof

/-- A decoded instruction: its variant and the operand fields of its word (R71, R75). -/
inductive Instr where
  | cls (z : Nibble)                        -- 00E0
  | ret (z : Nibble)                        -- 00EE
  | jp (nnn : Addr)                         -- 1nnn
  | call (nnn : Addr)                       -- 2nnn
  | seImm (x : Nibble) (kk : Byte)          -- 3xkk
  | sneImm (x : Nibble) (kk : Byte)         -- 4xkk
  | seReg (x y z : Nibble)                  -- 5xy0
  | ldImm (x : Nibble) (kk : Byte)          -- 6xkk
  | addImm (x : Nibble) (kk : Byte)         -- 7xkk
  | ldReg (x y : Nibble)                    -- 8xy0
  | or (x y : Nibble)                       -- 8xy1
  | and (x y : Nibble)                      -- 8xy2
  | xor (x y : Nibble)                      -- 8xy3
  | addReg (x y : Nibble)                   -- 8xy4
  | sub (x y : Nibble)                      -- 8xy5
  | shr (x z : Nibble)                      -- 8xy6
  | subn (x y : Nibble)                     -- 8xy7
  | shl (x z : Nibble)                      -- 8xyE
  | sneReg (x y z : Nibble)                 -- 9xy0
  | ldI (nnn : Addr)                        -- Annn
  | jpV0 (nnn : Addr)                       -- Bnnn
  | rnd (x : Nibble) (kk : Byte)            -- Cxkk
  | drw (x y n : Nibble)                    -- Dxyn
  | skp (x : Nibble)                        -- Ex9E
  | sknp (x : Nibble)                       -- ExA1
  | ldVxDt (x : Nibble)                     -- Fx07
  | ldVxK (x : Nibble)                      -- Fx0A
  | ldDtVx (x : Nibble)                     -- Fx15
  | ldStVx (x : Nibble)                     -- Fx18
  | addI (x : Nibble)                       -- Fx1E
  | ldF (x : Nibble)                        -- Fx29
  | ldB (x : Nibble)                        -- Fx33
  | ldMemVx (x : Nibble)                    -- Fx55
  | ldVxMem (x : Nibble)                    -- Fx65
  | unknown (op : Word)                     -- any other word (R77)
  deriving DecidableEq, Repr

end Sys2Proof
end

