-- ==== Sys2Proof/WellFormed.lean ====
section
/-!
DEFINITION. Which terms of `Instr` are instructions of the hardware. Every field has its width by type, so one check is
left: the word an `unknown` carries is one of the 13872 of spec/30_encoding.md R77.
-/

namespace Sys2Proof

/-- The words of the table of R77, category by category. -/
def unknownWord (op : Word) : Bool :=
  let low := op.extractLsb' 0 8
  match (op.extractLsb' 12 4).toNat with
  | 0x0 => !([0xE0#8, 0xEE#8].contains low)
  | 0x8 => [0x8#4, 0x9#4, 0xA#4, 0xB#4, 0xC#4, 0xD#4, 0xF#4].contains (op.extractLsb' 0 4)
  | 0xE => !([0x9E#8, 0xA1#8].contains low)
  | 0xF => !([0x07#8, 0x0A#8, 0x15#8, 0x18#8, 0x1E#8, 0x29#8, 0x33#8, 0x55#8, 0x65#8].contains low)
  | _ => false

/-- Well-formed: an `unknown` carries a word that no other row takes (R77). -/
def Instr.wf : Instr → Bool
  | .unknown op => unknownWord op
  | .cls _ | .ret _ | .jp _ | .call _ | .seImm _ _ | .sneImm _ _ | .seReg _ _ _ | .ldImm _ _ | .addImm _ _
  | .ldReg _ _ | .or _ _ | .and _ _ | .xor _ _ | .addReg _ _ | .sub _ _ | .shr _ _ | .subn _ _ | .shl _ _
  | .sneReg _ _ _ | .ldI _ | .jpV0 _ | .rnd _ _ | .drw _ _ _ | .skp _ | .sknp _ | .ldVxDt _ | .ldVxK _
  | .ldDtVx _ | .ldStVx _ | .addI _ | .ldF _ | .ldB _ | .ldMemVx _ | .ldVxMem _ => true

end Sys2Proof
end

