-- ==== Sys2Proof/Decode.lean ====
section
/-!
DEFINITION. The fields of a word (spec/30_encoding.md R71), the decoder (R74 to R77), the encoder written from the same
tables (R72, R74), and the instruction read from bytes in memory order (spec/20_memory.md R50).
-/

namespace Sys2Proof

/-- `c = op[15:12]`, the category (R71). -/
def fieldC (op : Word) : Nibble := op.extractLsb' 12 4

/-- `x = op[11:8]` (R71). -/
def fieldX (op : Word) : Nibble := op.extractLsb' 8 4

/-- `y = op[7:4]` (R71). -/
def fieldY (op : Word) : Nibble := op.extractLsb' 4 4

/-- `n = op[3:0]` (R71). -/
def fieldN (op : Word) : Nibble := op.extractLsb' 0 4

/-- `kk = op[7:0]` (R71). -/
def fieldKK (op : Word) : Byte := op.extractLsb' 0 8

/-- `nnn = op[11:0]` (R71). -/
def fieldNNN (op : Word) : Addr := op.extractLsb' 0 12

/-- Category 0x0: the low byte selects, `op[11:8]` is not examined (R74, R76). -/
def decode0 (op : Word) : Instr :=
  if fieldKK op = 0xE0#8 then .cls (fieldX op)
  else if fieldKK op = 0xEE#8 then .ret (fieldX op)
  else .unknown op

/-- Category 0x8: the low nibble selects (R74). -/
def decode8 (op : Word) : Instr :=
  let x := fieldX op
  let y := fieldY op
  match (fieldN op).toNat with
  | 0x0 => .ldReg x y
  | 0x1 => .or x y
  | 0x2 => .and x y
  | 0x3 => .xor x y
  | 0x4 => .addReg x y
  | 0x5 => .sub x y
  | 0x6 => .shr x y
  | 0x7 => .subn x y
  | 0xE => .shl x y
  | _ => .unknown op

/-- Category 0xE: the low byte selects (R74). -/
def decodeE (op : Word) : Instr :=
  if fieldKK op = 0x9E#8 then .skp (fieldX op)
  else if fieldKK op = 0xA1#8 then .sknp (fieldX op)
  else .unknown op

/-- Category 0xF: the low byte selects (R74). -/
def decodeF (op : Word) : Instr :=
  let x := fieldX op
  if fieldKK op = 0x07#8 then .ldVxDt x
  else if fieldKK op = 0x0A#8 then .ldVxK x
  else if fieldKK op = 0x15#8 then .ldDtVx x
  else if fieldKK op = 0x18#8 then .ldStVx x
  else if fieldKK op = 0x1E#8 then .addI x
  else if fieldKK op = 0x29#8 then .ldF x
  else if fieldKK op = 0x33#8 then .ldB x
  else if fieldKK op = 0x55#8 then .ldMemVx x
  else if fieldKK op = 0x65#8 then .ldVxMem x
  else .unknown op

/-- `Decode(op)` of R74: total, one variant for every word, UNKNOWN where no row matches. -/
def decodeWord (op : Word) : Instr :=
  match (fieldC op).toNat with
  | 0x0 => decode0 op
  | 0x1 => .jp (fieldNNN op)
  | 0x2 => .call (fieldNNN op)
  | 0x3 => .seImm (fieldX op) (fieldKK op)
  | 0x4 => .sneImm (fieldX op) (fieldKK op)
  | 0x5 => .seReg (fieldX op) (fieldY op) (fieldN op)
  | 0x6 => .ldImm (fieldX op) (fieldKK op)
  | 0x7 => .addImm (fieldX op) (fieldKK op)
  | 0x8 => decode8 op
  | 0x9 => .sneReg (fieldX op) (fieldY op) (fieldN op)
  | 0xA => .ldI (fieldNNN op)
  | 0xB => .jpV0 (fieldNNN op)
  | 0xC => .rnd (fieldX op) (fieldKK op)
  | 0xD => .drw (fieldX op) (fieldY op) (fieldN op)
  | 0xE => decodeE op
  | _ => decodeF op

/-- Why bytes give no instruction: fewer than the two bytes of a word (R70). Every word decodes (R75). -/
inductive DecodeError where
  | truncated
  deriving DecidableEq, Repr

/-- The word of two bytes in memory order, the high byte first (R50). -/
def wordOfBytes (hi lo : Byte) : Word := hi ++ lo

/-- The high byte of a word, the one at the lower address (R50). -/
def highByte (op : Word) : Byte := op.extractLsb' 8 8

/-- The low byte of a word, the one at the higher address (R50). -/
def lowByte (op : Word) : Byte := op.extractLsb' 0 8

/-- The instruction at the head of bytes in memory order, and the bytes after it. -/
def decode : List Byte → Except DecodeError (Instr × List Byte)
  | hi :: lo :: rest => .ok (decodeWord (wordOfBytes hi lo), rest)
  | [_] => .error .truncated
  | [] => .error .truncated

/-- Format NNN (R72). -/
def formNNN (c : Nibble) (nnn : Addr) : Word := c ++ nnn

/-- Formats XKK and XFN (R72); ZFN is the same with the nibble that is not examined in x's place. -/
def formXKK (c x : Nibble) (kk : Byte) : Word := c ++ x ++ kk

/-- Format XYN (R72). -/
def formXYN (c x y n : Nibble) : Word := c ++ x ++ y ++ n

/-- The word of an instruction, by the formats of R72 and the rows of R74. -/
def encode : Instr → Word
  | .cls z => formXKK 0x0 z 0xE0
  | .ret z => formXKK 0x0 z 0xEE
  | .jp nnn => formNNN 0x1 nnn
  | .call nnn => formNNN 0x2 nnn
  | .seImm x kk => formXKK 0x3 x kk
  | .sneImm x kk => formXKK 0x4 x kk
  | .seReg x y z => formXYN 0x5 x y z
  | .ldImm x kk => formXKK 0x6 x kk
  | .addImm x kk => formXKK 0x7 x kk
  | .ldReg x y => formXYN 0x8 x y 0x0
  | .or x y => formXYN 0x8 x y 0x1
  | .and x y => formXYN 0x8 x y 0x2
  | .xor x y => formXYN 0x8 x y 0x3
  | .addReg x y => formXYN 0x8 x y 0x4
  | .sub x y => formXYN 0x8 x y 0x5
  | .shr x z => formXYN 0x8 x z 0x6
  | .subn x y => formXYN 0x8 x y 0x7
  | .shl x z => formXYN 0x8 x z 0xE
  | .sneReg x y z => formXYN 0x9 x y z
  | .ldI nnn => formNNN 0xA nnn
  | .jpV0 nnn => formNNN 0xB nnn
  | .rnd x kk => formXKK 0xC x kk
  | .drw x y n => formXYN 0xD x y n
  | .skp x => formXKK 0xE x 0x9E
  | .sknp x => formXKK 0xE x 0xA1
  | .ldVxDt x => formXKK 0xF x 0x07
  | .ldVxK x => formXKK 0xF x 0x0A
  | .ldDtVx x => formXKK 0xF x 0x15
  | .ldStVx x => formXKK 0xF x 0x18
  | .addI x => formXKK 0xF x 0x1E
  | .ldF x => formXKK 0xF x 0x29
  | .ldB x => formXKK 0xF x 0x33
  | .ldMemVx x => formXKK 0xF x 0x55
  | .ldVxMem x => formXKK 0xF x 0x65
  | .unknown op => op

/-- The bytes of an instruction in memory order (R50). -/
def encodeBytes (i : Instr) : List Byte := [highByte (encode i), lowByte (encode i)]

/-- The word whose low `nbits` bits are those of `w` and whose other bits are 0, as the opcode table numbers them. -/
def tableWord (nbits w : Nat) : Word := BitVec.ofNat 16 (w % 2 ^ nbits)

/-- The instruction the decoder reads from a word numbered as spec/opcode_table.json numbers it, laid out as the
hardware stores it: the high byte first (R50). -/
def decodeTableWord (nbits w : Nat) : Option Instr :=
  match decode [highByte (tableWord nbits w), lowByte (tableWord nbits w)] with
  | .ok (i, _) => some i
  | .error _ => none

end Sys2Proof
end

