-- ==== Sys2Proof/Config.lean ====
section
/-!
DEFINITION. What CHIP8-CORE fixes (spec/00_scope.md R5) and what it leaves open (R6): the sizes, the default font table,
the strap LDST_INC_I, the random byte and the driver's order of events (R12).
-/

namespace Sys2Proof

/-- `MEM_SIZE` (R5). -/
abbrev Config.memSize : Nat := 4096

/-- `PROG_BASE`: where a program is loaded and where PC starts (R5). -/
abbrev Config.progBase : Nat := 0x200

/-- The longest program image: 4096 - 512 bytes (spec/20_memory.md R55, spec/70_reset_and_hazards.md R213). -/
abbrev Config.maxImage : Nat := 3584

/-- The bytes of the font table: 16 glyphs of `GLYPH_BYTES` = 5 bytes (R5). -/
abbrev Config.fontSize : Nat := 80

/-- The glyphs 0 to 7 of the default `FONT` (spec/10_state.md R38). -/
def Config.glyphsLow : List Byte :=
  [0xF0, 0x90, 0x90, 0x90, 0xF0] ++ [0x20, 0x60, 0x20, 0x20, 0x70] ++
  [0xF0, 0x10, 0xF0, 0x80, 0xF0] ++ [0xF0, 0x10, 0xF0, 0x10, 0xF0] ++
  [0x90, 0x90, 0xF0, 0x10, 0x10] ++ [0xF0, 0x80, 0xF0, 0x10, 0xF0] ++
  [0xF0, 0x80, 0xF0, 0x90, 0xF0] ++ [0xF0, 0x10, 0x20, 0x40, 0x40]

/-- The glyphs 8 to F of the default `FONT` (R38). -/
def Config.glyphsHigh : List Byte :=
  [0xF0, 0x90, 0xF0, 0x90, 0xF0] ++ [0xF0, 0x90, 0xF0, 0x10, 0xF0] ++
  [0xF0, 0x90, 0xF0, 0x90, 0x90] ++ [0xE0, 0x90, 0xE0, 0x90, 0xE0] ++
  [0xF0, 0x80, 0x80, 0x80, 0xF0] ++ [0xE0, 0x90, 0x90, 0x90, 0xE0] ++
  [0xF0, 0x80, 0xF0, 0x80, 0xF0] ++ [0xF0, 0x80, 0xF0, 0x80, 0x80]

/-- PRESUMED, unsafe (log 1): the default `FONT` of R38. The font is a parameter (R6): it is a field of the state, and
this is only the value that field has in `State.reset`. -/
def Config.defaultFont : Vector Byte Config.fontSize :=
  ⟨(Config.glyphsLow ++ Config.glyphsHigh).toArray, by decide⟩

/-- DESIGN CHOICE, safe (log 2): the strap `LDST_INC_I` as it stands after reset; the spec does not decide it (R7, R168),
so nothing says what it is. -/
opaque Config.ldstIncI : Bool

/-- DESIGN CHOICE, safe (log 3): the byte of the `n`-th draw; the source is outside the core and under no law (R6, R123),
so nothing says what it is. -/
opaque Config.rnd : Nat → Byte

/-- What the driver can do to the core (R12). DESIGN CHOICE, safe (log 9): `Load` has a move only right after `Reset`
(spec/70_reset_and_hazards.md R213), so one event is `Reset` followed by `Load`; the empty image is a `Reset` with no
`Load`. -/
inductive Event where
  /-- `Reset`, then `Load(image)` (R210, R213). -/
  | reset (image : List Byte)
  /-- `Step(rnd)`: one fetch, decode, execute (spec/40_step_and_pc.md R90). -/
  | step
  /-- `Tick` (spec/10_state.md R33). -/
  | tick
  /-- `KeySet(k, b)` (R35). -/
  | keySet (k : Nibble) (b : Bool)
  deriving DecidableEq, Repr, Inhabited

/-- DESIGN CHOICE, safe (log 4): the `n`-th event of a driver under no law; the order, the rate and the number of `Step`,
`Tick`, `KeySet` and `Reset` are free (R12, R221), so nothing says what any of them is. -/
opaque Config.driver : Nat → Event

end Sys2Proof
end

