-- ==== Sys2Proof/Machine/State.lean ====
section
/-!
DEFINITION. The state of CHIP8-CORE (spec/10_state.md R20 to R39), its driver (spec/00_scope.md R12), the
reasons a step can stop (spec/60_exceptions.md R180) and the state after reset (R39).
-/

namespace Sys2Proof.Machine

open Sys2Proof

/-- MEM as (address, byte) pairs, addresses rising, listing only the bytes that differ from their reset value (log 1). -/
abbrev Memory := List Host.Cell

/-- The reported conditions of R180 with their info values, and one of the model's own. An instruction that faults
changes no state (R183) and is not final: the step records the fault and the driver goes on (R186, D3; log 7). -/
inductive Fault where
  /-- Raised by the fetch of any step when `pc > 0x0FFE` (R91); info `max(pc, 0x1000)`. Safe: the spec's own fault. -/
  | fetchRange (info : Word)
  /-- Raised by DRW (n at least 1), LD_B, LD_MEM_VX and LD_VX_MEM when the highest address of the access is above 0xFFF
  (R57); info `max(I, 0x1000)`. Safe: the spec's own fault. -/
  | memRange (info : Word)
  /-- Raised by CALL when SP = 16 (R102); info `pc`. Safe: the spec's own fault. -/
  | stackOverflow (info : Word)
  /-- Raised by RET when SP = 0 (R100); info `pc`. Safe: the spec's own fault. -/
  | stackUnderflow (info : Word)
  /-- Raised by SKP and SKNP when Vx is above 15 (R116); info Vx. Safe: the spec's own fault. -/
  | keyIndex (info : Word)
  /-- DESIGN CHOICE (log 8), raised by CALL and RET in a state with SP above 16. Safe: no run reaches such a state (R29),
  the spec gives it no meaning, and the model stops. -/
  | stackPointerIllegal (sp : Word)
  deriving DecidableEq, Repr

/-- Which event comes when no issued one is left in the schedule (log 4). -/
inductive Driver where
  /-- A driver that issues `Step` for ever. -/
  | steady
  /-- A driver under no law: its next event is `Config.driver n`, the one after it `Config.driver (n + 1)`, without end
  (R221). -/
  | free (n : Nat)
  deriving DecidableEq, Repr

/-- The whole machine (R39), its two parameters (R6), and four fields of the model's own, which stand for what is outside the
core: `draws`, `schedule`, `driver`, `faults`. -/
structure State where
  /-- V0 to VF (R20). -/
  v : Vector Byte 16
  /-- The index register I (R23). -/
  i : Word
  /-- The program counter (R25). -/
  pc : Word
  /-- The stack pointer: how many entries are in use, 0 to 16 (R29). -/
  sp : Word
  /-- STACK[0] to STACK[15] (R28). -/
  stack : Vector Word 16
  /-- The delay timer (R32). -/
  dt : Byte
  /-- The sound timer (R32). -/
  st : Byte
  /-- KEY[0] to KEY[15] (R34). -/
  keys : Vector Bool 16
  /-- FB[x][y]: column x, then row y (R36). -/
  fb : Vector (Vector Bool 32) 64
  /-- MEM (R37). -/
  mem : Memory
  /-- The strap LDST_INC_I (R7, R31). -/
  ldstIncI : Bool
  /-- The parameter FONT (R6, R38). -/
  font : Vector Byte Config.fontSize
  /-- The model's own: how many random bytes have been drawn (log 3). -/
  draws : Nat
  /-- The model's own: events the driver has issued and that are still to happen, oldest first (log 4). -/
  schedule : List Event
  /-- The model's own: what the driver issues when the schedule is empty (log 4). -/
  driver : Driver
  /-- The model's own: the faults reported so far, the latest first; the core keeps no such record and nothing reads it
  (R186, D3; log 7). -/
  faults : List Fault
  deriving DecidableEq, Repr

/-- What the model gives no move. -/
inductive Refusal where
  /-- An instruction with no meaning yet; no arm of `exec` raises it. Safe: the model stops. -/
  | notModelled (mnemonic : String)
  /-- Raised by the event `reset` when its image is longer than 3584 bytes: the loader must reject it and the core defines
  no behaviour for it (R213). Safe: the model stops. -/
  | imageTooLong
  deriving DecidableEq, Repr

/-- The answer of a step or of a meaning. -/
abbrev StepResult := Host.Outcome State Fault Refusal

/-- The machine right after `Reset` (R39, R210), with nothing loaded. -/
def State.reset : State where
  v := Vector.replicate 16 0
  i := 0
  pc := BitVec.ofNat 16 Config.progBase
  sp := 0
  stack := Vector.replicate 16 0
  dt := 0
  st := 0
  keys := Vector.replicate 16 false
  fb := Vector.replicate 64 (Vector.replicate 32 false)
  mem := []
  ldstIncI := Config.ldstIncI
  font := Config.defaultFont
  draws := 0
  schedule := []
  driver := .free 0
  faults := []

end Sys2Proof.Machine
end

