-- ==== Sys2Proof/Machine/Ops.lean ====
section
/-!
DEFINITION. The named operations over memory, registers, program counter, stack, keys and framebuffer: the primitives of
spec/00_scope.md R10, and raising a fault (spec/60_exceptions.md R183, R185).
-/

namespace Sys2Proof.Machine

open Sys2Proof

/-! ### Memory (spec/10_state.md R37, R38; spec/20_memory.md R50, R61) -/

/-- What a byte that nothing has written reads as: the font table from 0x000 to 0x04F, 0x00 elsewhere (R38; log 1). -/
def Memory.unlisted (font : Vector Byte Config.fontSize) (a : Nat) : Byte :=
  if h : a < Config.fontSize then font[a] else 0

/-- The byte listed at an address, if one is. -/
def Memory.lookup : Memory → Nat → Option Byte
  | [], _ => none
  | (b, w) :: m, a => if a = b then some w else Memory.lookup m a

/-- `MEM[a]`: the listed byte, or what an unlisted address reads as (R61). -/
def Memory.read (font : Vector Byte Config.fontSize) (m : Memory) (a : Nat) : Byte :=
  (Memory.lookup m a).getD (Memory.unlisted font a)

/-- List `v` at `a`, in address order. -/
def Memory.put : Memory → Nat → Byte → Memory
  | [], a, v => [(a, v)]
  | (b, w) :: m, a, v =>
    if a < b then (a, v) :: (b, w) :: m
    else if a = b then (a, v) :: m
    else (b, w) :: Memory.put m a v

/-- List nothing at `a`. -/
def Memory.drop (m : Memory) (a : Nat) : Memory := m.filter fun c => c.1 != a

/-- `MEM[a] <- v`, keeping the canonical form: an entry equal to what the address reads as unlisted is not listed. -/
def Memory.write (font : Vector Byte Config.fontSize) (m : Memory) (a : Nat) (v : Byte) : Memory :=
  if v = Memory.unlisted font a then Memory.drop m a else Memory.put m a v

/-- Write bytes upward from `a`, one after another. -/
def Memory.writeAll (font : Vector Byte Config.fontSize) : Memory → Nat → List Byte → Memory
  | m, _, [] => m
  | m, a, b :: bs => Memory.writeAll font (Memory.write font m a b) (a + 1) bs

/-- The canonical form from address `lo` on: addresses rising, inside the 4096 bytes, no entry that could be left out. -/
def Memory.wfFrom (font : Vector Byte Config.fontSize) : Nat → Memory → Bool
  | _, [] => true
  | lo, (a, v) :: m =>
    decide (lo ≤ a) && decide (a < Config.memSize) && (v != Memory.unlisted font a) && Memory.wfFrom font (a + 1) m

/-- The canonical form of memory: two memories in it that read the same are the same list. -/
def Memory.wf (font : Vector Byte Config.fontSize) (m : Memory) : Bool := Memory.wfFrom font 0 m

/-- The read of one byte, with no bounds check (R10 `MEM[addr]`): callers check the whole range first (R57). -/
def State.readMem (s : State) (a : Nat) : Byte := Memory.read s.font s.mem a

/-- The write of one byte, with no bounds check (R57). -/
def State.writeMem (s : State) (a : Nat) (b : Byte) : State := { s with mem := Memory.write s.font s.mem a b }

/-- Write bytes upward from `a`. -/
def State.storeBytes (s : State) (a : Nat) (bs : List Byte) : State :=
  { s with mem := Memory.writeAll s.font s.mem a bs }

/-! ### Registers, timers, keys (spec/10_state.md R20, R23, R32, R34) -/

/-- `V[x]` (R20): any nibble is a register, none is hard-wired. -/
def State.reg (s : State) (x : Nibble) : Byte := s.v[x.toNat]'x.isLt

/-- `V[x] <- b` (R20). -/
def State.setReg (s : State) (x : Nibble) (b : Byte) : State := { s with v := s.v.set x.toNat b x.isLt }

/-- `I <- a` (R23). -/
def State.setI (s : State) (a : Word) : State := { s with i := a }

/-- `DT <- b` (R32). -/
def State.setDt (s : State) (b : Byte) : State := { s with dt := b }

/-- `ST <- b` (R32). -/
def State.setSt (s : State) (b : Byte) : State := { s with st := b }

/-- `KEY[k]` (R34). -/
def State.key (s : State) (k : Nibble) : Bool := s.keys[k.toNat]'k.isLt

/-- `KEY[k] <- b` (R34). -/
def State.setKey (s : State) (k : Nibble) (b : Bool) : State := { s with keys := s.keys.set k.toNat b k.isLt }

/-- The least pressed key, in index order 0 to 15 (spec/46_timers_keys.md R156). -/
def State.firstKey (s : State) : Option Nibble := ((List.range 16).map (BitVec.ofNat 4)).find? s.key

/-! ### The program counter (spec/40_step_and_pc.md R92; spec/00_scope.md R10) -/

/-- `pc <- target`. -/
def State.jump (s : State) (target : Word) : State := { s with pc := target }

/-- `advance`: `pc <- (pc + 2) mod 65536`. -/
def State.advance (s : State) : State := s.jump (s.pc + 2)

/-- `skip`: `pc <- (pc + 4) mod 65536`. -/
def State.skip (s : State) : State := s.jump (s.pc + 4)

/-- `if c then skip else advance`: how every skip operation ends (R92). -/
def State.skipIf (s : State) (c : Bool) : State := if c then s.skip else s.advance

/-! ### The call stack (spec/10_state.md R28, R29, R30) -/

/-- `STACK[SP] <- a; SP <- SP + 1`, with room for an entry. -/
def State.push (s : State) (a : Word) (h : s.sp.toNat < 16) : State :=
  { s with stack := s.stack.set s.sp.toNat a h, sp := s.sp + 1 }

/-- `STACK[SP - 1]`, the top, with an entry in use. -/
def State.top (s : State) (h : 0 < s.sp.toNat ∧ s.sp.toNat ≤ 16) : Word :=
  s.stack[s.sp.toNat - 1]'(by omega)

/-- `SP <- SP - 1`: the entry keeps its value (R30). -/
def State.pop (s : State) : State := { s with sp := s.sp - 1 }

/-! ### The framebuffer (spec/10_state.md R36) -/

/-- The grid of pixels, column by column. -/
abbrev Pixels := Vector (Vector Bool 32) 64

/-- `FB[x][y]`. -/
def Pixels.get (fb : Pixels) (x : Fin 64) (y : Fin 32) : Bool := fb[x][y]

/-- `FB[x][y] <- FB[x][y] xor 1`. -/
def Pixels.flip (fb : Pixels) (x : Fin 64) (y : Fin 32) : Pixels := fb.set x (fb[x].set y (!fb[x][y]))

/-- Every pixel dark. -/
def Pixels.dark : Pixels := Vector.replicate 64 (Vector.replicate 32 false)

/-- `FB[x][y]` of a state. -/
def State.pixel (s : State) (x : Fin 64) (y : Fin 32) : Bool := Pixels.get s.fb x y

/-- Replace the whole framebuffer. -/
def State.setFb (s : State) (fb : Pixels) : State := { s with fb := fb }

/-! ### The random byte (spec/00_scope.md R6; spec/43_load_immediate.md R123) -/

/-- The byte the next draw gives: a free value (log 3). -/
def State.rnd (s : State) : Byte := Config.rnd s.draws

/-- One byte has been drawn: the next draw is another. -/
def State.drawn (s : State) : State := { s with draws := s.draws + 1 }

/-! ### Faults (spec/60_exceptions.md R180, R183, R185) -/

/-- `raise F(info)`: the step ends with the fault; there is no trap entry and nothing is written (R183, R185). -/
def raise (f : Fault) : StepResult := .fault f

/-- Is it one of the five reported conditions of R180, after which the driver may go on (R186)? The model's own stop is
none of them (log 8). -/
def Fault.isReported : Fault → Bool
  | .fetchRange _ | .memRange _ | .stackOverflow _ | .stackUnderflow _ | .keyIndex _ => true
  | .stackPointerIllegal _ => false

/-- The fault is reported: nothing of the core changes, and the model's record of faults gains one (R183, D3; log 7). -/
def State.recordFault (s : State) (f : Fault) : State := { s with faults := f :: s.faults }

/-- `max(a, 0x1000)`: the lowest address above 0xFFF of an access upward from `a` that leaves memory (R57, R91). -/
def lowestOut (a : Word) : Word := if a.toNat < Config.memSize then 0x1000 else a

end Sys2Proof.Machine
end

