-- ==== Sys2Proof/Machine/Flags.lean ====
section
/-!
DEFINITION. VF, the only flag (spec/10_state.md R21), and every flag computation (spec/44_alu.md R135 to R139), each from
the operands as they were before the step (R130, spec/70_reset_and_hazards.md R216).
-/

namespace Sys2Proof.Machine

open Sys2Proof

/-- The register that is also the flag (R21). -/
abbrev flagReg : Nibble := 0xF#4

/-- A flag as the byte VF takes: exactly 0x00 or 0x01 (R21, R140). -/
def flagByte (c : Bool) : Byte := if c then 1 else 0

/-- The carry out of bit 7 of `a + b`: the sum exceeds 255 (R135). -/
def carry (a b : Byte) : Bool := decide (255 < a.toNat + b.toNat)

/-- Not-borrow of `a - b`: `a >= b` (R136, R138). -/
def notBorrow (a b : Byte) : Bool := decide (b.toNat ≤ a.toNat)

/-- The bit SHR shifts out (R137). -/
def shrOut (a : Byte) : Bool := a.getLsbD 0

/-- The bit SHL shifts out (R139). -/
def shlOut (a : Byte) : Bool := a.getLsbD 7

/-- `V[0xF] <- flag`. -/
def State.setFlag (s : State) (c : Bool) : State := s.setReg flagReg (flagByte c)

/-- The two writes of a flag-writing ALU instruction, in R130's order: the result to Vx, then the flag to VF. -/
def State.setRegFlag (s : State) (x : Nibble) (result : Byte) (c : Bool) : State := (s.setReg x result).setFlag c

end Sys2Proof.Machine
end

