-- ==== Sys2Proof/Machine/Alu.lean ====
section
/-!
DEFINITION. The ALU, 8xy0 to 8xy7 and 8xyE (spec/44_alu.md R130 to R139). Operands are read from the state before the
step; a flag is written last (R130).
-/

namespace Sys2Proof.Machine

open Sys2Proof

/-- LD Vx, Vy (R131). -/
def execLdReg (x y : Nibble) (s : State) : StepResult := .next (s.setReg x (s.reg y)).advance

/-- OR Vx, Vy (R132): VF is not written as a flag. -/
def execOr (x y : Nibble) (s : State) : StepResult := .next (s.setReg x (s.reg x ||| s.reg y)).advance

/-- AND Vx, Vy (R133): VF is not written as a flag. -/
def execAnd (x y : Nibble) (s : State) : StepResult := .next (s.setReg x (s.reg x &&& s.reg y)).advance

/-- XOR Vx, Vy (R134): VF is not written as a flag. -/
def execXor (x y : Nibble) (s : State) : StepResult := .next (s.setReg x (s.reg x ^^^ s.reg y)).advance

/-- ADD Vx, Vy (R135): VF is the carry. -/
def execAddReg (x y : Nibble) (s : State) : StepResult :=
  .next (s.setRegFlag x (s.reg x + s.reg y) (carry (s.reg x) (s.reg y))).advance

/-- SUB Vx, Vy (R136): VF is not-borrow of Vx - Vy. -/
def execSub (x y : Nibble) (s : State) : StepResult :=
  .next (s.setRegFlag x (s.reg x - s.reg y) (notBorrow (s.reg x) (s.reg y))).advance

/-- SHR Vx (R137): a logical shift by one of Vx alone. -/
def execShr (x : Nibble) (s : State) : StepResult :=
  .next (s.setRegFlag x (s.reg x >>> 1) (shrOut (s.reg x))).advance

/-- SUBN Vx, Vy (R138): VF is not-borrow of Vy - Vx. -/
def execSubn (x y : Nibble) (s : State) : StepResult :=
  .next (s.setRegFlag x (s.reg y - s.reg x) (notBorrow (s.reg y) (s.reg x))).advance

/-- SHL Vx (R139): a shift by one of Vx alone. -/
def execShl (x : Nibble) (s : State) : StepResult :=
  .next (s.setRegFlag x (s.reg x <<< 1) (shlOut (s.reg x))).advance

end Sys2Proof.Machine
end

