-- ==== Sys2Proof/Machine/Operands.lean ====
section
/-!
DEFINITION. The operand forms: constants widened with zeros (spec/30_encoding.md R73), the key a register selects
(spec/42_skips.md R116), and the one addressing mode, upward from I with the whole range checked first
(spec/20_memory.md R57, R58; spec/47_index_memory.md).
-/

namespace Sys2Proof.Machine

open Sys2Proof

/-- `zext_16(nnn)` (R73). -/
def zextAddr (nnn : Addr) : Word := nnn.setWidth 16

/-- `zext_16(v)` of a byte (R73). -/
def zextByte (b : Byte) : Word := b.setWidth 16

/-- `zext_16` of a nibble. -/
def zextNibble (x : Nibble) : Word := x.setWidth 16

/-- The key a register's value names, if it names one of the sixteen (R116). -/
def keyIndex (b : Byte) : Option Nibble := if b.toNat ≤ 15 then some (b.setWidth 4) else none

/-- An access to `len` bytes upward from I stays inside 0x000..0xFFF; an access to no byte always does (R57, R58: the sum
is not truncated). -/
def State.inRange (s : State) (len : Nat) : Bool := decide (len = 0 ∨ s.i.toNat + len - 1 ≤ 0xFFF)

/-- End in `t` if the access to `len` bytes upward from I is in range, else raise `MemRange` with nothing done (R57). -/
def State.checked (s : State) (len : Nat) (t : State) : StepResult :=
  if s.inRange len then .next t else raise (.memRange (lowestOut s.i))

/-- The registers V0 to Vx, in order (spec/47_index_memory.md R168). -/
def State.regsUpTo (s : State) (x : Nibble) : List Byte := s.v.toList.take (x.toNat + 1)

/-- `V[k] <- MEM[I + k]` for k from 0 to x, the other registers unchanged (R168, R170). -/
def State.loadRegs (s : State) (x : Nibble) : State :=
  { s with v := Vector.ofFn fun k : Fin 16 => if k.val ≤ x.toNat then s.readMem (s.i.toNat + k.val) else s.v[k] }

/-- `if LDST_INC_I then I <- (I + x + 1) mod 65536` (R168). -/
def State.bumpI (s : State) (x : Nibble) : State :=
  s.setI (if s.ldstIncI then s.i + zextNibble x + 1 else s.i)

end Sys2Proof.Machine
end

