-- ==== Sys2Proof/Machine/Constant.lean ====
section
/-!
DEFINITION. Constants, LD_IMM, ADD_IMM, LD_I, RND (spec/43_load_immediate.md R120 to R123).
-/

namespace Sys2Proof.Machine

open Sys2Proof

/-- LD Vx, kk (R120). -/
def execLdImm (x : Nibble) (kk : Byte) (s : State) : StepResult := .next (s.setReg x kk).advance

/-- ADD Vx, kk (R121): the sum wraps and VF is not written as a flag. -/
def execAddImm (x : Nibble) (kk : Byte) (s : State) : StepResult := .next (s.setReg x (s.reg x + kk)).advance

/-- LD I, nnn (R122). -/
def execLdI (nnn : Addr) (s : State) : StepResult := .next (s.setI (zextAddr nnn)).advance

/-- RND Vx, kk (R123): the byte drawn is a free value (log 3). -/
def execRnd (x : Nibble) (kk : Byte) (s : State) : StepResult := .next (s.setReg x (s.rnd &&& kk)).drawn.advance

end Sys2Proof.Machine
end

