-- ==== Sys2Proof/Machine/Draw.lean ====
section
/-!
DEFINITION. The framebuffer engine, CLS and DRW (spec/45_draw.md R145 to R148).
-/

namespace Sys2Proof.Machine

open Sys2Proof

/-- CLS (R145). -/
def execCls (s : State) : StepResult := .next (s.setFb Pixels.dark).advance

/-- The column a sprite's pixel `col` lands on: it wraps (R146). -/
def drawX (vx : Byte) (col : Nat) : Fin 64 := Fin.ofNat 64 (vx.toNat + col)

/-- The row a sprite's byte `row` lands on: it wraps (R146). -/
def drawY (vy : Byte) (row : Nat) : Fin 32 := Fin.ofNat 32 (vy.toNat + row)

/-- Pixel `col` of a sprite byte: bit 7 is column 0, the leftmost (R147). -/
def spriteBit (b : Byte) (col : Nat) : Bool := b.getLsbD (7 - col)

/-- One pixel of a sprite: a set bit toggles its target, and `hit` records a pixel going from lit to unlit (R146). -/
def drawPixel (vx vy : Byte) (row : Nat) (b : Byte) (c : Pixels × Bool) (col : Nat) : Pixels × Bool :=
  if spriteBit b col then
    (Pixels.flip c.1 (drawX vx col) (drawY vy row), c.2 || Pixels.get c.1 (drawX vx col) (drawY vy row))
  else c

/-- One sprite byte: its eight pixels, left to right (R146). -/
def drawRow (vx vy : Byte) (row : Nat) (b : Byte) (c : Pixels × Bool) : Pixels × Bool :=
  (List.range 8).foldl (drawPixel vx vy row b) c

/-- The sprite of `n` bytes at I, drawn from the top row down; the framebuffer after it and `hit` (R146). -/
def State.drawSprite (s : State) (vx vy : Byte) (n : Nat) : Pixels × Bool :=
  (List.range n).foldl (fun c row => drawRow vx vy row (s.readMem (s.i.toNat + row)) c) (s.fb, false)

/-- DRW Vx, Vy, n (R146): the coordinates are read before VF is written (R148), and VF is written even when `n = 0`. -/
def execDrw (x y n : Nibble) (s : State) : StepResult :=
  let r := s.drawSprite (s.reg x) (s.reg y) n.toNat
  s.checked n.toNat ((s.setFb r.1).setFlag r.2).advance

end Sys2Proof.Machine
end

