-- ==== Sys2Proof/Machine/Flow.lean ====
section
/-!
DEFINITION. Flow control, RET, JP, CALL, JP_V0 (spec/41_flow_control.md R100 to R103), and UNKNOWN
(spec/40_step_and_pc.md R94).
-/

namespace Sys2Proof.Machine

open Sys2Proof

/-- RET (R100): the popped entry is the address of its CALL, and control resumes at the word after it. With SP above 16,
which no run reaches (R29), the model stops (log 8). -/
def execRet (s : State) : StepResult :=
  if s.sp = 0 then raise (.stackUnderflow s.pc)
  else if h : 0 < s.sp.toNat ∧ s.sp.toNat ≤ 16 then .next (s.pop.jump (s.top h + 2))
  else raise (.stackPointerIllegal s.sp)

/-- JP (R101). -/
def execJp (nnn : Addr) (s : State) : StepResult := .next (s.jump (zextAddr nnn))

/-- CALL (R102): it pushes its own address. With SP above 16, which no run reaches (R29), the model stops (log 8). -/
def execCall (nnn : Addr) (s : State) : StepResult :=
  if s.sp = 16 then raise (.stackOverflow s.pc)
  else if h : s.sp.toNat < 16 then .next ((s.push s.pc h).jump (zextAddr nnn))
  else raise (.stackPointerIllegal s.sp)

/-- JP_V0 (R103): the sum is not reduced to 12 bits. -/
def execJpV0 (nnn : Addr) (s : State) : StepResult := .next (s.jump (zextAddr nnn + zextByte (s.reg 0)))

/-- UNKNOWN (R94): one word forward, nothing else. -/
def execUnknown (s : State) : StepResult := .next s.advance

end Sys2Proof.Machine
end

