-- ==== Sys2Proof/Machine/IndexMem.lean ====
section
/-!
DEFINITION. Index register and memory instructions, Fx1E, Fx29, Fx33, Fx55, Fx65 (spec/47_index_memory.md R165 to R170).
-/

namespace Sys2Proof.Machine

open Sys2Proof

/-- ADD I, Vx (R165): modulo 65536, VF is not written. -/
def execAddI (x : Nibble) (s : State) : StepResult := .next (s.setI (s.i + zextByte (s.reg x))).advance

/-- LD F, Vx (R166): the whole byte times 5. -/
def execLdF (x : Nibble) (s : State) : StepResult := .next (s.setI (5 * zextByte (s.reg x))).advance

/-- The hundreds, tens and ones of a byte (R167). -/
def bcdDigits (b : Byte) : List Byte :=
  [BitVec.ofNat 8 (b.toNat / 100), BitVec.ofNat 8 (b.toNat / 10 % 10), BitVec.ofNat 8 (b.toNat % 10)]

/-- LD B, Vx (R167). -/
def execLdB (x : Nibble) (s : State) : StepResult :=
  s.checked 3 (s.storeBytes s.i.toNat (bcdDigits (s.reg x))).advance

/-- LD [I], Vx (R169): then I moves if the strap says so (R168). -/
def execLdMemVx (x : Nibble) (s : State) : StepResult :=
  s.checked (x.toNat + 1) ((s.storeBytes s.i.toNat (s.regsUpTo x)).bumpI x).advance

/-- LD Vx, [I] (R170): then I moves if the strap says so (R168). -/
def execLdVxMem (x : Nibble) (s : State) : StepResult :=
  s.checked (x.toNat + 1) ((s.loadRegs x).bumpI x).advance

end Sys2Proof.Machine
end

