-- ==== Sys2Proof/Machine/Skip.lean ====
section
/-!
DEFINITION. The skips, SE, SNE, SKP, SKNP (spec/42_skips.md R110 to R116).
-/

namespace Sys2Proof.Machine

open Sys2Proof

/-- SE Vx, kk (R110). -/
def execSeImm (x : Nibble) (kk : Byte) (s : State) : StepResult := .next (s.skipIf (s.reg x == kk))

/-- SNE Vx, kk (R111). -/
def execSneImm (x : Nibble) (kk : Byte) (s : State) : StepResult := .next (s.skipIf (s.reg x != kk))

/-- SE Vx, Vy (R112). -/
def execSeReg (x y : Nibble) (s : State) : StepResult := .next (s.skipIf (s.reg x == s.reg y))

/-- SNE Vx, Vy (R113). -/
def execSneReg (x y : Nibble) (s : State) : StepResult := .next (s.skipIf (s.reg x != s.reg y))

/-- Skip on the flag of the key Vx names, or raise `KeyIndex` if it names none (R116). -/
def skipOnKey (x : Nibble) (wanted : Bool) (s : State) : StepResult :=
  match keyIndex (s.reg x) with
  | some k => .next (s.skipIf (s.key k == wanted))
  | none => raise (.keyIndex (zextByte (s.reg x)))

/-- SKP Vx (R114): the flag is read, not cleared. -/
def execSkp (x : Nibble) (s : State) : StepResult := skipOnKey x true s

/-- SKNP Vx (R115). -/
def execSknp (x : Nibble) (s : State) : StepResult := skipOnKey x false s

end Sys2Proof.Machine
end

