-- ==== Sys2Proof/Machine/TimerKey.lean ====
section
/-!
DEFINITION. Timer and key instructions, Fx07, Fx0A, Fx15, Fx18 (spec/46_timers_keys.md R155 to R158).
-/

namespace Sys2Proof.Machine

open Sys2Proof

/-- LD Vx, DT (R155). -/
def execLdVxDt (x : Nibble) (s : State) : StepResult := .next (s.setReg x s.dt).advance

/-- LD Vx, K (R156): the least pressed key, whose flag is cleared; with none pressed the outcome is `WAIT`, which changes
nothing, `pc` included (spec/40_step_and_pc.md R95; log 6). -/
def execLdVxK (x : Nibble) (s : State) : StepResult :=
  match s.firstKey with
  | some k => .next ((s.setReg x (k.setWidth 8)).setKey k false).advance
  | none => .next s

/-- LD DT, Vx (R157). -/
def execLdDtVx (x : Nibble) (s : State) : StepResult := .next (s.setDt (s.reg x)).advance

/-- LD ST, Vx (R158). -/
def execLdStVx (x : Nibble) (s : State) : StepResult := .next (s.setSt (s.reg x)).advance

end Sys2Proof.Machine
end

