-- ==== Sys2Proof/Machine/Events.lean ====
section
/-!
DEFINITION. The events of spec/00_scope.md R12: `Reset` and `Load` (spec/70_reset_and_hazards.md R210, R213), `Step`
(spec/40_step_and_pc.md R90, R91), `Tick` (spec/10_state.md R33), `KeySet` (R35), and which of them is next (log 4).
-/

namespace Sys2Proof.Machine

open Sys2Proof

/-- The word at PC, high byte first, or the fault `FetchRange` if either byte is outside memory (R91). -/
def State.fetch (s : State) : Except Fault Word :=
  if 0x0FFE < s.pc.toNat then .error (.fetchRange (lowestOut s.pc))
  else .ok (wordOfBytes (s.readMem s.pc.toNat) (s.readMem (s.pc.toNat + 1)))

/-- What the core answers to `Step(rnd)`: fetch, decode, execute (R90). -/
def State.coreStep (s : State) : StepResult :=
  match s.fetch with
  | .ok op => exec (decodeWord op) s
  | .error f => raise f

/-- How a `Step` from `s` ends, given the core's answer: a reported fault is not final, it changes nothing but the record, and
the driver may issue any event after it (spec/60_exceptions.md R183, R186; log 7). -/
def State.conclude (s : State) (r : StepResult) : StepResult :=
  match r with
  | .next t => .next t
  | .fault f => if f.isReported then .next (s.recordFault f) else .fault f
  | .refused r => .refused r

/-- The event `Step(rnd)` (R90). -/
def State.stepEvent (s : State) : StepResult := s.conclude s.coreStep

/-- A timer one tick later: it stops at zero (R33). -/
def tickDown (b : Byte) : Byte := if b = 0 then 0 else b - 1

/-- `Tick`: the two timers, each on its own, and nothing else (R33). -/
def State.tick (s : State) : State := (s.setDt (tickDown s.dt)).setSt (tickDown s.st)

/-- `Reset` (R210): every piece of the spec's state at its reset value. The strap and FONT are parameters and stay (R7,
R41); the model's own draw count, schedule, driver and record of faults stay (log 10). -/
def State.afterReset (s : State) : State :=
  { State.reset with
    ldstIncI := s.ldstIncI, font := s.font, draws := s.draws, schedule := s.schedule, driver := s.driver, faults := s.faults }

/-- `Load(image)`: the image byte for byte from 0x200 upward (R213). -/
def State.load (s : State) (image : List Byte) : State := s.storeBytes Config.progBase image

/-- `Reset` and then `Load(image)`; an image that does not fit has no move (R213). -/
def State.boot (s : State) (image : List Byte) : StepResult :=
  if image.length ≤ Config.maxImage then .next (s.afterReset.load image) else .refused .imageTooLong

/-- One event of R12, whole. -/
def handle (e : Event) (s : State) : StepResult :=
  match e with
  | .reset image => s.boot image
  | .step => s.stepEvent
  | .tick => .next s.tick
  | .keySet k b => .next (s.setKey k b)

/-- The next event: the oldest of the schedule; with none left, `Step` of a steady driver, or the free driver's next one,
which may be any (R12, R221; log 4). -/
def State.nextEvent (s : State) : StepResult :=
  match s.schedule, s.driver with
  | e :: rest, _ => handle e { s with schedule := rest }
  | [], .steady => handle .step s
  | [], .free n => handle (Config.driver n) { s with driver := .free (n + 1) }

/-- Where the next word is fetched: PC, or the program base if no word can be fetched at PC (log 11). -/
def State.fetchBase (s : State) : Word :=
  if 0x0FFE < s.pc.toNat then BitVec.ofNat 16 Config.progBase else s.pc

/-- The state whose very next step fetches and runs the word `op`: the word placed in memory there, and a steady driver with
no event before it (log 11). -/
def State.placeWord (s : State) (op : Word) : State :=
  { s.storeBytes s.fetchBase.toNat [highByte op, lowByte op] with pc := s.fetchBase, schedule := [], driver := .steady }

end Sys2Proof.Machine
end

