-- ==== Sys2Proof/Machine/Step.lean ====
section
/-!
DEFINITION. The step of the machine: the next event of spec/00_scope.md R12 (log 4), and where a word is placed so that
the next step runs it (log 11).
-/

namespace Sys2Proof.Machine

open Sys2Proof

/-- One event of the driver, whole (R12). -/
def step (s : State) : Host.Outcome State Fault Refusal := s.nextEvent

/-- `s` with the word numbered `w` by spec/opcode_table.json stored where the next step fetches it (log 11). -/
def State.withFetchWord (s : State) (nbits w : Nat) : State := s.placeWord (tableWord nbits w)

end Sys2Proof.Machine
end

