-- ==== Sys2Proof/Machine/Ports.lean ====
section
/-!
DEFINITION. The output ports of spec/60_exceptions.md R197: they show state and change nothing. The outcome of a step is an
output, not a register (spec/00_scope.md R11, spec/10_state.md R31).
-/

namespace Sys2Proof.Machine

open Sys2Proof

/-- `fb_read(x, y)` (R197). -/
def State.fbReadPort (s : State) (x : Fin 64) (y : Fin 32) : Bool := s.pixel x y

/-- `key_get(k)` (R197). -/
def State.keyGetPort (s : State) (k : Nibble) : Bool := s.key k

/-- `dt` (R197). -/
def State.dtPort (s : State) : Byte := s.dt

/-- `st` (R197). -/
def State.stPort (s : State) : Byte := s.st

/-- The three outcomes of a step (R11). -/
inductive PortOutcome where
  /-- The instruction was applied whole. -/
  | ok
  /-- Only LD_VX_K with no key pressed: nothing changed. -/
  | wait
  /-- A reported condition, with `code[2:0]` and `info[15:0]` (R180). -/
  | fault (code : BitVec 3) (info : Word)
  deriving DecidableEq, Repr

/-- `code[2:0]` of the outcome port: 0 accompanies `OK` and `WAIT` (R180). -/
def PortOutcome.code : PortOutcome → BitVec 3
  | .ok => 0
  | .wait => 0
  | .fault code _ => code

/-- `code` and `info` of R180; the model's own fault is none of them (log 8). -/
def Fault.report : Fault → Option PortOutcome
  | .fetchRange info => some (.fault 1 info)
  | .memRange info => some (.fault 2 info)
  | .stackOverflow info => some (.fault 3 info)
  | .stackUnderflow info => some (.fault 4 info)
  | .keyIndex info => some (.fault 5 info)
  | .stackPointerIllegal _ => none

/-- Is the next instruction LD_VX_K with no key pressed (spec/40_step_and_pc.md R95)? -/
def State.waiting (s : State) : Bool :=
  match s.fetch with
  | .ok op =>
    match decodeWord op with
    | .ldVxK _ => s.firstKey.isNone
    | _ => false
  | .error _ => false

/-- The `outcome` port at the end of a `Step` from `s` (R11, R197): `none` only where the model itself stops (log 8). -/
def State.outcomePort (s : State) : Option PortOutcome :=
  match s.coreStep with
  | .next _ => some (if s.waiting then .wait else .ok)
  | .fault f => f.report
  | .refused _ => none

end Sys2Proof.Machine
end

