-- ==== Sys2Proof/Safety.lean ====
section
/-!
DEFINITION. The terms claims use: the invariant of every run, what a program must respect for an instruction not to fault
(spec/70_reset_and_hazards.md R220), and frames: the parts of the state and what it is for one to be unchanged.
-/

namespace Sys2Proof.Machine

open Sys2Proof

/-- What holds of every state a run reaches: memory in canonical form; SP in 0..16 (spec/10_state.md R29); every stack
entry an address a CALL can stand at, at most 0x0FFE (spec/41_flow_control.md R100); PC at most 0x10FE (R27). -/
structure Invariant (s : State) : Prop where
  memory : Memory.wf s.font s.mem = true
  pointer : s.sp.toNat ≤ 16
  entries : ∀ k : Fin 16, s.stack[k].toNat ≤ 0x0FFE
  counter : s.pc.toNat ≤ 0x10FE

/-- What a program must respect for this instruction not to fault in this state (R180, R181, R220): room on the stack for
a CALL, an entry in use for a RET, memory operands inside 0x000..0xFFF, a key index inside 0..15. -/
def Respects (i : Instr) (s : State) : Prop :=
  match i with
  | .ret _ => 1 ≤ s.sp.toNat ∧ s.sp.toNat ≤ 16
  | .call _ => s.sp.toNat < 16
  | .drw _ _ n => n.toNat = 0 ∨ s.i.toNat + n.toNat - 1 ≤ 0xFFF
  | .skp x | .sknp x => (s.reg x).toNat ≤ 15
  | .ldB _ => s.i.toNat + 2 ≤ 0xFFF
  | .ldMemVx x | .ldVxMem x => s.i.toNat + x.toNat ≤ 0xFFF
  | .cls _ | .jp _ | .seImm _ _ | .sneImm _ _ | .seReg _ _ _ | .ldImm _ _ | .addImm _ _ | .ldReg _ _ | .or _ _
  | .and _ _ | .xor _ _ | .addReg _ _ | .sub _ _ | .shr _ _ | .subn _ _ | .shl _ _ | .sneReg _ _ _ | .ldI _ | .jpV0 _
  | .rnd _ _ | .ldVxDt _ | .ldVxK _ | .ldDtVx _ | .ldStVx _ | .addI _ | .ldF _ | .unknown _ => True

/-- The parts of the state: the ten items of spec/10_state.md R39 (SP and the entries are two), the strap and FONT, and
the model's own draw count, schedule, driver and record of faults. -/
inductive Part where
  | v | i | pc | sp | stack | dt | st | keys | fb | mem | params | draws | schedule | driver | faults
  deriving DecidableEq, Repr

/-- A part is the same in two states, said through the model's reads: every register, every key, every pixel, every byte
of memory. -/
def Part.Same (p : Part) (s t : State) : Prop :=
  match p with
  | .v => ∀ r : Nibble, t.reg r = s.reg r
  | .i => t.i = s.i
  | .pc => t.pc = s.pc
  | .sp => t.sp = s.sp
  | .stack => ∀ k : Fin 16, t.stack[k] = s.stack[k]
  | .dt => t.dt = s.dt
  | .st => t.st = s.st
  | .keys => ∀ k : Nibble, t.key k = s.key k
  | .fb => ∀ (x : Fin 64) (y : Fin 32), t.pixel x y = s.pixel x y
  | .mem => ∀ a : Nat, t.readMem a = s.readMem a
  | .params => t.ldstIncI = s.ldstIncI ∧ t.font = s.font
  | .draws => t.draws = s.draws
  | .schedule => t.schedule = s.schedule
  | .driver => t.driver = s.driver
  | .faults => t.faults = s.faults

/-- The frame: every part but those listed is the same. -/
def KeepsAllBut (changed : List Part) (s t : State) : Prop := ∀ p : Part, p ∉ changed → p.Same s t

/-- Every register but those listed holds what it held. -/
def RegsKeptBut (changed : List Nibble) (s t : State) : Prop := ∀ r : Nibble, r ∉ changed → t.reg r = s.reg r

/-- `pc <- (pc + 2) mod 65536` (spec/00_scope.md R10 `advance`). -/
def Advanced (s t : State) : Prop := t.pc.toNat = (s.pc.toNat + 2) % 65536

/-- `pc <- (pc + 4) mod 65536` (R10 `skip`). -/
def Skipped (s t : State) : Prop := t.pc.toNat = (s.pc.toNat + 4) % 65536

/-- Some set bit of the `n`-byte sprite at I, drawn at (vx, vy), has the pixel (px, py) as its target: bit `7 - col` of
row `row` targets column `(vx + col) mod 64` and row `(vy + row) mod 32` (spec/45_draw.md R146, R147). -/
def SpriteHits (s : State) (vx vy : Byte) (n : Nat) (px : Fin 64) (py : Fin 32) : Prop :=
  ∃ row col : Nat, row < n ∧ col < 8 ∧ (s.readMem (s.i.toNat + row)).getLsbD (7 - col) = true ∧
    px.val = (vx.toNat + col) % 64 ∧ py.val = (vy.toNat + row) % 32

/-- The parts an instruction may write besides `pc`: the tables of spec/10_state.md R22, R23, R29, R31, R36, R37, and the
draw count of RND. -/
def Writes (i : Instr) : List Part :=
  match i with
  | .cls _ => [.fb]
  | .ret _ => [.sp]
  | .call _ => [.sp, .stack]
  | .jp _ | .jpV0 _ | .seImm _ _ | .sneImm _ _ | .seReg _ _ _ | .sneReg _ _ _ | .skp _ | .sknp _ | .unknown _ => []
  | .ldImm _ _ | .addImm _ _ | .ldReg _ _ | .or _ _ | .and _ _ | .xor _ _ | .addReg _ _ | .sub _ _ | .shr _ _
  | .subn _ _ | .shl _ _ | .ldVxDt _ => [.v]
  | .rnd _ _ => [.v, .draws]
  | .drw _ _ _ => [.v, .fb]
  | .ldVxK _ => [.v, .keys]
  | .ldDtVx _ => [.dt]
  | .ldStVx _ => [.st]
  | .ldI _ | .addI _ | .ldF _ => [.i]
  | .ldB _ => [.mem]
  | .ldMemVx _ => [.mem, .i]
  | .ldVxMem _ => [.v, .i]

/-- Does an instruction write this register (R22: `write Vx`, `write V0 to Vx`, `write VF as a flag`)? -/
def WritesReg (i : Instr) (r : Nibble) : Prop :=
  match i with
  | .ldImm x _ | .addImm x _ | .ldReg x _ | .or x _ | .and x _ | .xor x _ | .rnd x _ | .ldVxDt x | .ldVxK x => r = x
  | .addReg x _ | .sub x _ | .shr x _ | .subn x _ | .shl x _ => r = x ∨ r = 0xF#4
  | .drw _ _ _ => r = 0xF#4
  | .ldVxMem x => r.toNat ≤ x.toNat
  | .cls _ | .ret _ | .jp _ | .call _ | .seImm _ _ | .sneImm _ _ | .seReg _ _ _ | .sneReg _ _ _ | .ldI _ | .jpV0 _
  | .skp _ | .sknp _ | .ldDtVx _ | .ldStVx _ | .addI _ | .ldF _ | .ldB _ | .ldMemVx _ | .unknown _ => False

/-- A row of the opcode table (spec/30_encoding.md R74): every word that has the row's fixed bits decodes to its variant,
with the operands the row gives it. -/
def EncodedAs (fixed mask : Word) (variant : Word → Instr) : Prop :=
  ∀ op : Word, op &&& mask = fixed → decodeWord op = variant op

/-- The `MemRange` fault of an access upward from I (spec/20_memory.md R57): info `max(I, 0x1000)`. -/
def rangeFault (s : State) : Fault := .memRange (BitVec.ofNat 16 (max s.i.toNat 0x1000))

/-- I after Fx55 or Fx65 (spec/47_index_memory.md R168): moved by x + 1 modulo 65536 if the strap says so. -/
def IndexAfterTransfer (x : Nibble) (s t : State) : Prop :=
  t.i.toNat = if s.ldstIncI then (s.i.toNat + x.toNat + 1) % 65536 else s.i.toNat

/-- The calls in `targets`, one after another, each at the PC the one before it left. -/
def callAll : List Addr → State → StepResult
  | [], s => .next s
  | nnn :: rest, s =>
    match exec (.call nnn) s with
    | .next t => callAll rest t
    | .fault f => .fault f
    | .refused r => .refused r

/-- A result with its next state, if it has one, changed by `g`. -/
def mapNext (g : State → State) : StepResult → StepResult
  | .next t => .next (g t)
  | .fault f => .fault f
  | .refused r => .refused r

/-- The same core under another driver. -/
def State.outside (s : State) (schedule : List Event) (driver : Driver) (faults : List Fault) : State :=
  { s with schedule := schedule, driver := driver, faults := faults }

/-- `k` steps of the machine, up to the first stop. -/
def runFor : Nat → State → StepResult
  | 0, s => .next s
  | k + 1, s =>
    match step s with
    | .next t => runFor k t
    | .fault f => .fault f
    | .refused r => .refused r

/-- These events of R12, one after another, up to the first stop. -/
def perform : List Event → State → StepResult
  | [], s => .next s
  | e :: rest, s =>
    match handle e s with
    | .next t => perform rest t
    | .fault f => .fault f
    | .refused r => .refused r

/-- `k` returns, one after another. -/
def returnAll : Nat → State → StepResult
  | 0, s => .next s
  | k + 1, s =>
    match exec (.ret 0) s with
    | .next t => returnAll k t
    | .fault f => .fault f
    | .refused r => .refused r

end Sys2Proof.Machine
end

