-- ==== Sys2Proof/Certificates/Slice0/Obligations.lean ====
section
/-!
DEFINITION. The statements for the provers, from the numbered rules of spec/. Frames are said with `KeepsAllBut` and
`RegsKeptBut` of Sys2Proof/Safety.lean; a register, a key, a pixel and a byte of memory through the model's reads.
-/

open Sys2Proof Sys2Proof.Machine

/-! ### Encoding -/

/-- R71, R72, R74: decoding the bytes of a well-formed instruction gives it back, every operand at every value, and
leaves the bytes after it. -/
def Obligations.DecodeEncodeRoundTrip : Prop :=
  ∀ (i : Instr) (rest : List Byte), i.wf = true → decode (encodeBytes i ++ rest) = .ok (i, rest)

/-- R74, R75: every 16-bit word decodes to one well-formed instruction, and no bit of the word is lost. -/
def Obligations.EncodeDecodeRoundTrip : Prop :=
  ∀ op : Word, (decodeWord op).wf = true ∧ encode (decodeWord op) = op

/-- The table of R77: exactly these words decode to UNKNOWN, and the variant carries the word. -/
def Obligations.UnknownWordsAreTheTable : Prop :=
  ∀ op : Word,
    (decodeWord op = .unknown op ↔
      (op.toNat / 4096 = 0x0 ∧ op.toNat % 256 ∉ [0xE0, 0xEE]) ∨
      (op.toNat / 4096 = 0x8 ∧ op.toNat % 16 ∈ [0x8, 0x9, 0xA, 0xB, 0xC, 0xD, 0xF]) ∨
      (op.toNat / 4096 = 0xE ∧ op.toNat % 256 ∉ [0x9E, 0xA1]) ∨
      (op.toNat / 4096 = 0xF ∧ op.toNat % 256 ∉ [0x07, 0x0A, 0x15, 0x18, 0x1E, 0x29, 0x33, 0x55, 0x65])) ∧
    ∀ u : Word, decodeWord op = .unknown u → u = op

/-- Words of spec/95_test_vectors.md, K1 to K20 and the examples of the rules, in memory order. -/
def Obligations.SpecWordsDecode : Prop :=
  decode [0x00, 0xE0] = .ok (.cls 0, []) ∧ decode [0x01, 0xE0] = .ok (.cls 1, []) ∧
  decode [0x0A, 0xEE] = .ok (.ret 0xA, []) ∧ decode [0x23, 0x00] = .ok (.call 0x300, []) ∧
  decode [0x6A, 0x3C] = .ok (.ldImm 0xA 0x3C, []) ∧ decode [0x9A, 0xB7] = .ok (.sneReg 0xA 0xB 7, []) ∧
  decode [0x81, 0x28] = .ok (.unknown 0x8128, []) ∧ decode [0x81, 0x2E] = .ok (.shl 1 2, []) ∧
  decode [0xD1, 0x25] = .ok (.drw 1 2 5, []) ∧ decode [0xE1, 0x9E] = .ok (.skp 1, []) ∧
  decode [0xF1, 0x65] = .ok (.ldVxMem 1, []) ∧ decode [0x00, 0x00] = .ok (.unknown 0, [])

/-- R76: words that differ only in bits the decoder does not examine do the same; and the `y` nibble of SHR and SHL is
read by nothing (R137, R139). -/
def Obligations.UnexaminedBitsDoNothing : Prop :=
  ∀ (op op' : Word) (s : State),
    (op.toNat / 4096 = 0x0 ∧ op' &&& 0xF0FF#16 = op &&& 0xF0FF#16) ∨
    ((op.toNat / 4096 = 0x5 ∨ op.toNat / 4096 = 0x9) ∧ op' &&& 0xFFF0#16 = op &&& 0xFFF0#16) ∨
    ((op &&& 0xF00F#16 = 0x8006#16 ∨ op &&& 0xF00F#16 = 0x800E#16) ∧ op' &&& 0xFF0F#16 = op &&& 0xFF0F#16) →
    exec (decodeWord op') s = exec (decodeWord op) s

/-! ### The step and the events of the driver -/

/-- R90: where the bytes at PC decode to a well-formed instruction, the step is that instruction's execution, when the
driver's next event is a `Step`: issued already, and then only taken off the schedule first, or of the steady driver (log 4).
A next state is the step's; a reported fault changes nothing but the model's record of faults (log 7); the model's own stop
is the step's (log 8). -/
def Obligations.StepRunsDecodedInstruction : Prop :=
  ∀ (s s' : State) (i : Instr) (rest : List Byte),
    (s.schedule = [] ∧ s.driver = .steady ∧ s' = s ∨
      ∃ later, s.schedule = .step :: later ∧ s' = { s with schedule := later }) →
    s.pc.toNat ≤ 0x0FFE → i.wf = true →
    decode (s.readMem s.pc.toNat :: s.readMem (s.pc.toNat + 1) :: rest) = .ok (i, rest) →
    (∀ t, exec i s' = .next t → step s = .next t) ∧
    (∀ f, exec i s' = .fault f → f.isReported = true → step s = .next { s' with faults := f :: s'.faults }) ∧
    (∀ f, exec i s' = .fault f → f.isReported = false → step s = .fault f) ∧
    ∀ r, exec i s' = .refused r → step s = .refused r

/-- The model's schedule and driver of log 4: a step takes the oldest event the driver has issued off the schedule and is that
event of R12, whole; with none issued it is `Step` of a steady driver, or the next event, any one, of a free driver. -/
def Obligations.NextEventIsTaken : Prop :=
  ∀ s : State,
    (∀ (e : Event) (later : List Event), s.schedule = e :: later → step s = handle e { s with schedule := later }) ∧
    (s.schedule = [] → s.driver = .steady → step s = handle .step s) ∧
    ∀ n : Nat, s.schedule = [] → s.driver = .free n →
      step s = handle (Config.driver n) { s with driver := .free (n + 1) }

/-- R12, R221 in the form of log 4: every finite order of events is a run: with exactly these events in the schedule, as many
steps as there are events are those events, one after another, none lost and none added. -/
def Obligations.ScheduleIsPerformedInOrder : Prop :=
  ∀ (events : List Event) (s : State),
    runFor events.length { s with schedule := events } = perform events { s with schedule := [] }

/-- R221 in the form of log 4: a free driver never ends: any number of its steps are its events, one after another, each of
them free; and the state after reset has a free driver and no event issued, so no order is left out of the run from
reset. -/
def Obligations.FreeDriverNeverEnds : Prop :=
  (State.reset.schedule = [] ∧ State.reset.driver = .free 0) ∧
  ∀ (k n : Nat) (s : State), s.schedule = [] → s.driver = .free n →
    runFor k s = match perform ((List.range k).map fun j => Config.driver (n + j)) s with
      | .next t => .next { t with driver := .free (n + k) }
      | .fault f => .fault f
      | .refused r => .refused r

/-- R91, R50: the word is the two bytes at PC, the high byte at the lower address, with no alignment rule; with PC above
0x0FFE the step of the core is the fault FetchRange with info `max(pc, 0x1000)`. -/
def Obligations.FetchIsBigEndianOrFaults : Prop :=
  ∀ s : State,
    (0x0FFE < s.pc.toNat → s.coreStep = .fault (.fetchRange (BitVec.ofNat 16 (max s.pc.toNat 0x1000)))) ∧
    ∀ op : Word, s.pc.toNat ≤ 0x0FFE →
      op.toNat = 256 * (s.readMem s.pc.toNat).toNat + (s.readMem (s.pc.toNat + 1)).toNat →
      s.coreStep = exec (decodeWord op) s

/-- R33: `Tick` counts each timer down on its own, stopping at zero, and changes nothing else. -/
def Obligations.TickCountsDown : Prop :=
  ∀ s : State, ∃ t, handle .tick s = .next t ∧ t.dt.toNat = s.dt.toNat - 1 ∧ t.st.toNat = s.st.toNat - 1 ∧
    KeepsAllBut [.dt, .st] s t

/-- R35: `KeySet(k, b)` sets one key flag and changes nothing else. -/
def Obligations.KeySetSetsOneKey : Prop :=
  ∀ (s : State) (k : Nibble) (b : Bool),
    ∃ t, handle (.keySet k b) s = .next t ∧ t.key k = b ∧ (∀ j : Nibble, j ≠ k → t.key j = s.key j) ∧
      KeepsAllBut [.keys] s t

/-- R39: the state after reset, whole; FONT is a parameter (R6). -/
def Obligations.ResetState : Prop :=
  (∀ r : Nibble, State.reset.reg r = 0) ∧ State.reset.i = 0 ∧ State.reset.pc = 0x0200 ∧ State.reset.sp = 0 ∧
  (∀ k : Fin 16, State.reset.stack[k] = 0) ∧ State.reset.dt = 0 ∧ State.reset.st = 0 ∧
  (∀ k : Nibble, State.reset.key k = false) ∧
  (∀ (x : Fin 64) (y : Fin 32), State.reset.pixel x y = false) ∧
  (∀ a : Fin 80, State.reset.readMem a.val = State.reset.font[a]) ∧
  ∀ a : Nat, 0x050 ≤ a → a ≤ 0xFFF → State.reset.readMem a = 0

/-- R210, R213 in the form of log 9 and log 10: the event `reset image` leaves every register, timer, key and pixel at its
reset value and memory holding FONT, the image from 0x200 and zeros; the strap and FONT stay; an image of more than 3584
bytes has no move. That one event is `Reset` then `Load`, and that the model's own fields stay, are the model's choices. -/
def Obligations.ResetEventBoots : Prop :=
  ∀ (s : State) (image : List Byte) (later : List Event), s.schedule = .reset image :: later →
    (image.length ≤ 3584 → ∃ t, step s = .next t ∧ t.schedule = later ∧ t.draws = s.draws ∧
      t.driver = s.driver ∧ t.faults = s.faults ∧ t.ldstIncI = s.ldstIncI ∧ t.font = s.font ∧ (∀ r : Nibble, t.reg r = 0) ∧ t.i = 0 ∧ t.pc = 0x0200 ∧ t.sp = 0 ∧
      (∀ k : Fin 16, t.stack[k] = 0) ∧ t.dt = 0 ∧ t.st = 0 ∧ (∀ k : Nibble, t.key k = false) ∧
      (∀ (x : Fin 64) (y : Fin 32), t.pixel x y = false) ∧
      (∀ a : Fin 80, t.readMem a.val = s.font[a]) ∧
      (∀ k : Fin image.length, t.readMem (0x200 + k.val) = image[k]) ∧
      ∀ a : Nat, 0x050 ≤ a → a ≤ 0xFFF → (a < 0x200 ∨ 0x200 + image.length ≤ a) → t.readMem a = 0) ∧
    (3584 < image.length → step s = .refused .imageTooLong)

/-- R95: Fx0A with no key pressed is a `WAIT`: the event `Step` changes nothing at all, so the next one fetches the same
word. -/
def Obligations.WaitingStepChangesNothing : Prop :=
  ∀ (s : State) (x : Nibble), s.pc.toNat ≤ 0x0FFE →
    s.readMem s.pc.toNat = 0xF0#8 ||| x.setWidth 8 → s.readMem (s.pc.toNat + 1) = 0x0A#8 →
    (∀ k : Nibble, s.key k = false) → handle .step s = .next s ∧ s.outcomePort = some .wait

/-- R95, R156: a `KeySet(k, true)` and a `Step` let a waiting program pass: Vx holds the key and PC has moved. -/
def Obligations.KeyPressEndsWait : Prop :=
  ∀ (s : State) (x k : Nibble) (later : List Event), s.schedule = .keySet k true :: .step :: later → s.pc.toNat ≤ 0x0FFE →
    s.readMem s.pc.toNat = 0xF0#8 ||| x.setWidth 8 → s.readMem (s.pc.toNat + 1) = 0x0A#8 →
    (∀ j : Nibble, s.key j = false) →
    ∃ t u, step s = .next t ∧ step t = .next u ∧ u.schedule = later ∧ (u.reg x).toNat = k.toNat ∧ Advanced s u ∧
      (∀ j : Nibble, u.key j = false) ∧ RegsKeptBut [x] s u ∧ KeepsAllBut [.v, .keys, .pc, .schedule] s u

/-! ### Invariants -/

/-- Every step, whatever the event, keeps the invariant `Invariant`: canonical memory, SP in 0..16 (R29), stack entries at most
0x0FFE (R100), PC at most 0x10FE (R27). -/
def Obligations.StepKeepsInvariant : Prop :=
  ∀ s t : State, Invariant s → step s = .next t → Invariant t

/-- The invariant holds at reset. -/
def Obligations.ResetMeetsInvariant : Prop := Invariant State.reset

/-- R7, R41: no event and no instruction changes the strap or FONT. -/
def Obligations.ParametersNeverChange : Prop :=
  ∀ s t : State, step s = .next t → t.ldstIncI = s.ldstIncI ∧ t.font = s.font

/-! ### Flow control -/

/-- R101, R103: JP and JP_V0 set `pc` and nothing else; the sum of JP_V0 is not reduced to 12 bits. -/
def Obligations.JumpsSetPcAlone : Prop :=
  EncodedAs 0x1000 0xF000 (fun op => .jp (fieldNNN op)) ∧ EncodedAs 0xB000 0xF000 (fun op => .jpV0 (fieldNNN op)) ∧
  ∀ (nnn : Addr) (s : State),
    (∃ t, exec (.jp nnn) s = .next t ∧ t.pc.toNat = nnn.toNat ∧ KeepsAllBut [.pc] s t) ∧
    ∃ t, exec (.jpV0 nnn) s = .next t ∧ t.pc.toNat = (nnn.toNat + (s.reg 0).toNat) % 65536 ∧ KeepsAllBut [.pc] s t

/-- R102: CALL pushes its own address and jumps; with SP = 16 it is StackOverflow and nothing changes. -/
def Obligations.CallPushesItsAddress : Prop :=
  EncodedAs 0x2000 0xF000 (fun op => .call (fieldNNN op)) ∧
  ∀ (nnn : Addr) (s : State),
    (s.sp.toNat = 16 → exec (.call nnn) s = .fault (.stackOverflow s.pc)) ∧
    (s.sp.toNat < 16 → ∃ t, exec (.call nnn) s = .next t ∧ t.sp.toNat = s.sp.toNat + 1 ∧ t.pc.toNat = nnn.toNat ∧
      (∀ k : Fin 16, t.stack[k] = if k.val = s.sp.toNat then s.pc else s.stack[k]) ∧
      KeepsAllBut [.sp, .stack, .pc] s t)

/-- R100: RET resumes at the word after the CALL and leaves the popped entry; with SP = 0 it is StackUnderflow and nothing
changes; and the stack law: after k at most 16 calls and k returns SP is back, PC is the first call's address plus 2, and
only stack entries may differ. -/
def Obligations.ReturnResumesAfterCall : Prop :=
  EncodedAs 0x00EE 0xF0FF (fun op => .ret (fieldX op)) ∧
  (∀ (z : Nibble) (s : State),
    (s.sp.toNat = 0 → exec (.ret z) s = .fault (.stackUnderflow s.pc)) ∧
    ∀ k : Fin 16, s.sp.toNat = k.val + 1 → ∃ t, exec (.ret z) s = .next t ∧ t.sp.toNat = k.val ∧
      t.pc.toNat = (s.stack[k].toNat + 2) % 65536 ∧ KeepsAllBut [.sp, .pc] s t) ∧
  ∀ (first : Addr) (others : List Addr) (s : State), s.sp.toNat + (others.length + 1) ≤ 16 →
    ∃ t u, callAll (first :: others) s = .next t ∧ returnAll (others.length + 1) t = .next u ∧
      u.sp = s.sp ∧ Advanced s u ∧ KeepsAllBut [.stack, .pc] s u

/-- The model's choice of log 8: in a state with SP above 16, which no run reaches, CALL and RET stop. -/
def Obligations.IllegalStackPointerStops : Prop :=
  ∀ (nnn : Addr) (z : Nibble) (s : State), 16 < s.sp.toNat →
    exec (.call nnn) s = .fault (.stackPointerIllegal s.sp) ∧ exec (.ret z) s = .fault (.stackPointerIllegal s.sp)

/-- R94: every word of R77 runs as a no-operation of one word. -/
def Obligations.UnknownIsNoOperation : Prop :=
  ∀ (op u : Word) (s : State), decodeWord op = .unknown u →
    ∃ t, exec (decodeWord op) s = .next t ∧ Advanced s t ∧ KeepsAllBut [.pc] s t

/-! ### Skips -/

/-- R110 to R113: the four skips on registers and constants write `pc` alone, by 4 if their condition holds, else 2. -/
def Obligations.RegisterSkips : Prop :=
  EncodedAs 0x3000 0xF000 (fun op => .seImm (fieldX op) (fieldKK op)) ∧
  EncodedAs 0x4000 0xF000 (fun op => .sneImm (fieldX op) (fieldKK op)) ∧
  EncodedAs 0x5000 0xF000 (fun op => .seReg (fieldX op) (fieldY op) (fieldN op)) ∧
  EncodedAs 0x9000 0xF000 (fun op => .sneReg (fieldX op) (fieldY op) (fieldN op)) ∧
  ∀ (x y z : Nibble) (kk : Byte) (s : State),
    (∃ t, exec (.seImm x kk) s = .next t ∧ KeepsAllBut [.pc] s t ∧
      if (s.reg x).toNat = kk.toNat then Skipped s t else Advanced s t) ∧
    (∃ t, exec (.sneImm x kk) s = .next t ∧ KeepsAllBut [.pc] s t ∧
      if (s.reg x).toNat = kk.toNat then Advanced s t else Skipped s t) ∧
    (∃ t, exec (.seReg x y z) s = .next t ∧ KeepsAllBut [.pc] s t ∧
      if (s.reg x).toNat = (s.reg y).toNat then Skipped s t else Advanced s t) ∧
    ∃ t, exec (.sneReg x y z) s = .next t ∧ KeepsAllBut [.pc] s t ∧
      if (s.reg x).toNat = (s.reg y).toNat then Advanced s t else Skipped s t

/-- R114, R115, R116: SKP and SKNP skip on the flag of the key Vx names and clear nothing; with Vx above 15 they are
KeyIndex with info Vx and nothing changes. -/
def Obligations.KeySkips : Prop :=
  EncodedAs 0xE09E 0xF0FF (fun op => .skp (fieldX op)) ∧ EncodedAs 0xE0A1 0xF0FF (fun op => .sknp (fieldX op)) ∧
  ∀ (x : Nibble) (s : State),
    (∀ k : Nibble, (s.reg x).toNat = k.toNat →
      (∃ t, exec (.skp x) s = .next t ∧ KeepsAllBut [.pc] s t ∧
        if s.key k = true then Skipped s t else Advanced s t) ∧
      ∃ t, exec (.sknp x) s = .next t ∧ KeepsAllBut [.pc] s t ∧
        if s.key k = true then Advanced s t else Skipped s t) ∧
    (15 < (s.reg x).toNat →
      exec (.skp x) s = .fault (.keyIndex (BitVec.ofNat 16 (s.reg x).toNat)) ∧
      exec (.sknp x) s = .fault (.keyIndex (BitVec.ofNat 16 (s.reg x).toNat)))

/-! ### Constants and the index register -/

/-- R120, R121: LD_IMM and ADD_IMM write Vx alone; the sum wraps modulo 256 and VF is no flag of it. -/
def Obligations.ConstantsToRegisters : Prop :=
  EncodedAs 0x6000 0xF000 (fun op => .ldImm (fieldX op) (fieldKK op)) ∧
  EncodedAs 0x7000 0xF000 (fun op => .addImm (fieldX op) (fieldKK op)) ∧
  ∀ (x : Nibble) (kk : Byte) (s : State),
    (∃ t, exec (.ldImm x kk) s = .next t ∧ t.reg x = kk ∧ Advanced s t ∧ RegsKeptBut [x] s t ∧
      KeepsAllBut [.v, .pc] s t) ∧
    ∃ t, exec (.addImm x kk) s = .next t ∧ (t.reg x).toNat = ((s.reg x).toNat + kk.toNat) % 256 ∧ Advanced s t ∧
      RegsKeptBut [x] s t ∧ KeepsAllBut [.v, .pc] s t

/-- R122, R165, R166: LD_I, ADD_I and LD_F write I alone: nnn, the sum modulo 65536, five times the whole byte. -/
def Obligations.IndexRegisterWrites : Prop :=
  EncodedAs 0xA000 0xF000 (fun op => .ldI (fieldNNN op)) ∧ EncodedAs 0xF01E 0xF0FF (fun op => .addI (fieldX op)) ∧
  EncodedAs 0xF029 0xF0FF (fun op => .ldF (fieldX op)) ∧
  ∀ (nnn : Addr) (x : Nibble) (s : State),
    (∃ t, exec (.ldI nnn) s = .next t ∧ t.i.toNat = nnn.toNat ∧ Advanced s t ∧ KeepsAllBut [.i, .pc] s t) ∧
    (∃ t, exec (.addI x) s = .next t ∧ t.i.toNat = (s.i.toNat + (s.reg x).toNat) % 65536 ∧ Advanced s t ∧
      KeepsAllBut [.i, .pc] s t) ∧
    ∃ t, exec (.ldF x) s = .next t ∧ t.i.toNat = 5 * (s.reg x).toNat ∧ Advanced s t ∧ KeepsAllBut [.i, .pc] s t

/-- R123 in the form of log 3: Vx is the byte drawn and kk; the byte is a free value, so this holds for every byte, and
the draw count moves, so the next draw is under no law with this one. The draw count is the model's choice. -/
def Obligations.RandomByteMasked : Prop :=
  EncodedAs 0xC000 0xF000 (fun op => .rnd (fieldX op) (fieldKK op)) ∧
  ∀ (x : Nibble) (kk : Byte) (s : State),
    ∃ t, exec (.rnd x kk) s = .next t ∧ t.reg x = Config.rnd s.draws &&& kk ∧ t.draws = s.draws + 1 ∧ Advanced s t ∧
      RegsKeptBut [x] s t ∧ KeepsAllBut [.v, .draws, .pc] s t

/-- R123: the random byte is ignored by every other instruction. -/
def Obligations.RandomByteIgnoredByOthers : Prop :=
  ∀ (i : Instr) (s t : State) (d : Nat), (∀ x kk, i ≠ .rnd x kk) → exec i s = .next t →
    exec i { s with draws := d } = .next { t with draws := d }

/-! ### The ALU -/

/-- R131 to R134: set, or, and, xor write Vx alone; VF is no flag of them. -/
def Obligations.CopyAndLogic : Prop :=
  EncodedAs 0x8000 0xF00F (fun op => .ldReg (fieldX op) (fieldY op)) ∧
  EncodedAs 0x8001 0xF00F (fun op => .or (fieldX op) (fieldY op)) ∧
  EncodedAs 0x8002 0xF00F (fun op => .and (fieldX op) (fieldY op)) ∧
  EncodedAs 0x8003 0xF00F (fun op => .xor (fieldX op) (fieldY op)) ∧
  ∀ (x y : Nibble) (s : State),
    (∃ t, exec (.ldReg x y) s = .next t ∧ t.reg x = s.reg y ∧ Advanced s t ∧ RegsKeptBut [x] s t ∧
      KeepsAllBut [.v, .pc] s t) ∧
    (∃ t, exec (.or x y) s = .next t ∧ t.reg x = s.reg x ||| s.reg y ∧ Advanced s t ∧ RegsKeptBut [x] s t ∧
      KeepsAllBut [.v, .pc] s t) ∧
    (∃ t, exec (.and x y) s = .next t ∧ t.reg x = s.reg x &&& s.reg y ∧ Advanced s t ∧ RegsKeptBut [x] s t ∧
      KeepsAllBut [.v, .pc] s t) ∧
    ∃ t, exec (.xor x y) s = .next t ∧ t.reg x = s.reg x ^^^ s.reg y ∧ Advanced s t ∧ RegsKeptBut [x] s t ∧
      KeepsAllBut [.v, .pc] s t

/-- R135: the sum modulo 256 to Vx, then the carry to VF; with x = 0xF the flag is what VF holds (R130). -/
def Obligations.AddSetsCarry : Prop :=
  EncodedAs 0x8004 0xF00F (fun op => .addReg (fieldX op) (fieldY op)) ∧
  ∀ (x y : Nibble) (s : State),
    ∃ t, exec (.addReg x y) s = .next t ∧ Advanced s t ∧ RegsKeptBut [x, 0xF#4] s t ∧ KeepsAllBut [.v, .pc] s t ∧
      (x ≠ 0xF#4 → (t.reg x).toNat = ((s.reg x).toNat + (s.reg y).toNat) % 256) ∧
      (t.reg 0xF#4).toNat = if 255 < (s.reg x).toNat + (s.reg y).toNat then 1 else 0

/-- R136, R138: the difference modulo 256 to Vx, then not-borrow to VF; with x = 0xF the flag is what VF holds (R130). -/
def Obligations.SubtractSetsNotBorrow : Prop :=
  EncodedAs 0x8005 0xF00F (fun op => .sub (fieldX op) (fieldY op)) ∧
  EncodedAs 0x8007 0xF00F (fun op => .subn (fieldX op) (fieldY op)) ∧
  ∀ (x y : Nibble) (s : State),
    (∃ t, exec (.sub x y) s = .next t ∧ Advanced s t ∧ RegsKeptBut [x, 0xF#4] s t ∧ KeepsAllBut [.v, .pc] s t ∧
      (x ≠ 0xF#4 → (t.reg x).toNat = ((s.reg x).toNat + 256 - (s.reg y).toNat) % 256) ∧
      (t.reg 0xF#4).toNat = if (s.reg y).toNat ≤ (s.reg x).toNat then 1 else 0) ∧
    ∃ t, exec (.subn x y) s = .next t ∧ Advanced s t ∧ RegsKeptBut [x, 0xF#4] s t ∧ KeepsAllBut [.v, .pc] s t ∧
      (x ≠ 0xF#4 → (t.reg x).toNat = ((s.reg y).toNat + 256 - (s.reg x).toNat) % 256) ∧
      (t.reg 0xF#4).toNat = if (s.reg x).toNat ≤ (s.reg y).toNat then 1 else 0

/-- R137, R139: Vx alone is shifted by one, then the bit shifted out goes to VF; with x = 0xF the flag is what VF holds
(R130). -/
def Obligations.ShiftsSetBitShiftedOut : Prop :=
  EncodedAs 0x8006 0xF00F (fun op => .shr (fieldX op) (fieldY op)) ∧
  EncodedAs 0x800E 0xF00F (fun op => .shl (fieldX op) (fieldY op)) ∧
  ∀ (x z : Nibble) (s : State),
    (∃ t, exec (.shr x z) s = .next t ∧ Advanced s t ∧ RegsKeptBut [x, 0xF#4] s t ∧ KeepsAllBut [.v, .pc] s t ∧
      (x ≠ 0xF#4 → (t.reg x).toNat = (s.reg x).toNat / 2) ∧ (t.reg 0xF#4).toNat = (s.reg x).toNat % 2) ∧
    ∃ t, exec (.shl x z) s = .next t ∧ Advanced s t ∧ RegsKeptBut [x, 0xF#4] s t ∧ KeepsAllBut [.v, .pc] s t ∧
      (x ≠ 0xF#4 → (t.reg x).toNat = 2 * (s.reg x).toNat % 256) ∧ (t.reg 0xF#4).toNat = (s.reg x).toNat / 128

/-! ### The framebuffer -/

/-- R145: CLS darkens every pixel and changes nothing else, VF included. -/
def Obligations.ClearScreenDarkens : Prop :=
  EncodedAs 0x00E0 0xF0FF (fun op => .cls (fieldX op)) ∧
  ∀ (z : Nibble) (s : State),
    ∃ t, exec (.cls z) s = .next t ∧ (∀ (px : Fin 64) (py : Fin 32), t.pixel px py = false) ∧ Advanced s t ∧
      KeepsAllBut [.fb, .pc] s t

/-- R146, R147, R148: DRW toggles exactly the pixels a set sprite bit targets, wrapping per pixel, from the coordinates as
they were; VF is 1 if one of them was lit, else 0; with n = 0 nothing is read and VF is 0; a sprite that runs off memory is
MemRange and nothing is drawn. -/
def Obligations.DrawTogglesSprite : Prop :=
  EncodedAs 0xD000 0xF000 (fun op => .drw (fieldX op) (fieldY op) (fieldN op)) ∧
  ∀ (x y n : Nibble) (s : State),
    (1 ≤ n.toNat ∧ 0xFFF < s.i.toNat + n.toNat - 1 → exec (.drw x y n) s = .fault (rangeFault s)) ∧
    (n.toNat = 0 ∨ s.i.toNat + n.toNat - 1 ≤ 0xFFF → ∃ t, exec (.drw x y n) s = .next t ∧ Advanced s t ∧
      RegsKeptBut [0xF#4] s t ∧ KeepsAllBut [.v, .fb, .pc] s t ∧
      (∀ (px : Fin 64) (py : Fin 32), (t.pixel px py ≠ s.pixel px py ↔
        SpriteHits s (s.reg x) (s.reg y) n.toNat px py)) ∧
      ((t.reg 0xF#4 = 1#8 ∧ ∃ px py, SpriteHits s (s.reg x) (s.reg y) n.toNat px py ∧ s.pixel px py = true) ∨
       (t.reg 0xF#4 = 0#8 ∧ ∀ px py, SpriteHits s (s.reg x) (s.reg y) n.toNat px py → s.pixel px py = false)))

/-- R149: the same sprite drawn twice at the same place restores every pixel, and VF after the second draw is 1 exactly if
some set bit's pixel was lit after the first; and CLS then any DRW gives VF = 0. -/
def Obligations.DrawTwiceRestores : Prop :=
  (∀ (x y n : Nibble) (s t u : State), exec (.drw x y n) s = .next t → exec (.drw x y n) t = .next u →
    t.reg x = s.reg x → t.reg y = s.reg y →
    (∀ (px : Fin 64) (py : Fin 32), u.pixel px py = s.pixel px py) ∧
    (u.reg 0xF#4 = 0#8 ∨ u.reg 0xF#4 = 1#8) ∧
    (u.reg 0xF#4 = 1#8 ↔ ∃ px py, SpriteHits s (s.reg x) (s.reg y) n.toNat px py ∧ t.pixel px py = true)) ∧
  ∀ (x y n z : Nibble) (s t u : State), exec (.cls z) s = .next t → exec (.drw x y n) t = .next u → u.reg 0xF#4 = 0#8

/-! ### Timers and keys -/

/-- R155, R157, R158: Fx07 copies DT to Vx, Fx15 sets DT and Fx18 sets ST from Vx; no step counts a timer. -/
def Obligations.TimerMoves : Prop :=
  EncodedAs 0xF007 0xF0FF (fun op => .ldVxDt (fieldX op)) ∧ EncodedAs 0xF015 0xF0FF (fun op => .ldDtVx (fieldX op)) ∧
  EncodedAs 0xF018 0xF0FF (fun op => .ldStVx (fieldX op)) ∧
  ∀ (x : Nibble) (s : State),
    (∃ t, exec (.ldVxDt x) s = .next t ∧ t.reg x = s.dt ∧ Advanced s t ∧ RegsKeptBut [x] s t ∧
      KeepsAllBut [.v, .pc] s t) ∧
    (∃ t, exec (.ldDtVx x) s = .next t ∧ t.dt = s.reg x ∧ Advanced s t ∧ KeepsAllBut [.dt, .pc] s t) ∧
    ∃ t, exec (.ldStVx x) s = .next t ∧ t.st = s.reg x ∧ Advanced s t ∧ KeepsAllBut [.st, .pc] s t

/-- R156: Fx0A takes the least pressed key, clears its flag alone and moves on; with none pressed nothing changes; the
outcome port says `OK` or `WAIT` accordingly. -/
def Obligations.KeyWaitTakesLeastKey : Prop :=
  EncodedAs 0xF00A 0xF0FF (fun op => .ldVxK (fieldX op)) ∧
  ∀ (x : Nibble) (s : State),
    (∀ k : Nibble, s.key k = true → (∀ j : Nibble, j.toNat < k.toNat → s.key j = false) →
      ∃ t, exec (.ldVxK x) s = .next t ∧ (t.reg x).toNat = k.toNat ∧ t.key k = false ∧
        (∀ j : Nibble, j ≠ k → t.key j = s.key j) ∧ Advanced s t ∧ RegsKeptBut [x] s t ∧
        KeepsAllBut [.v, .keys, .pc] s t) ∧
    ((∀ k : Nibble, s.key k = false) → exec (.ldVxK x) s = .next s) ∧
    (s.pc.toNat ≤ 0x0FFE → s.readMem s.pc.toNat = 0xF0#8 ||| x.setWidth 8 → s.readMem (s.pc.toNat + 1) = 0x0A#8 →
      s.outcomePort = some (if ∃ k : Nibble, s.key k = true then .ok else .wait))

/-- R32: no instruction reads ST, so two states that differ in ST alone stay so. -/
def Obligations.SoundTimerIsNeverRead : Prop :=
  ∀ (i : Instr) (s t : State) (b : Byte), exec i s = .next t →
    ∃ b', exec i { s with st := b } = .next { t with st := b' }

/-! ### Memory instructions -/

/-- R167: the three decimal digits of Vx at I, I + 1, I + 2, every other byte as before; off the end of memory MemRange and
no byte written. -/
def Obligations.BcdStoresThreeDigits : Prop :=
  EncodedAs 0xF033 0xF0FF (fun op => .ldB (fieldX op)) ∧
  ∀ (x : Nibble) (s : State),
    (0xFFF < s.i.toNat + 2 → exec (.ldB x) s = .fault (rangeFault s)) ∧
    (s.i.toNat + 2 ≤ 0xFFF → ∃ t, exec (.ldB x) s = .next t ∧
      (t.readMem s.i.toNat).toNat = (s.reg x).toNat / 100 ∧
      (t.readMem (s.i.toNat + 1)).toNat = (s.reg x).toNat / 10 % 10 ∧
      (t.readMem (s.i.toNat + 2)).toNat = (s.reg x).toNat % 10 ∧
      (∀ a : Nat, a < s.i.toNat ∨ s.i.toNat + 2 < a → t.readMem a = s.readMem a) ∧ Advanced s t ∧
      KeepsAllBut [.mem, .pc] s t)

/-- R169 with R168: V0 to Vx at I upward, every other byte as before, I moved only if the strap says so; off the end of
memory MemRange and no byte written. -/
def Obligations.RegisterDump : Prop :=
  EncodedAs 0xF055 0xF0FF (fun op => .ldMemVx (fieldX op)) ∧
  ∀ (x : Nibble) (s : State),
    (0xFFF < s.i.toNat + x.toNat → exec (.ldMemVx x) s = .fault (rangeFault s)) ∧
    (s.i.toNat + x.toNat ≤ 0xFFF → ∃ t, exec (.ldMemVx x) s = .next t ∧
      (∀ r : Nibble, r.toNat ≤ x.toNat → t.readMem (s.i.toNat + r.toNat) = s.reg r) ∧
      (∀ a : Nat, a < s.i.toNat ∨ s.i.toNat + x.toNat < a → t.readMem a = s.readMem a) ∧
      IndexAfterTransfer x s t ∧ Advanced s t ∧ KeepsAllBut [.mem, .i, .pc] s t)

/-- R170 with R168: V0 to Vx from I upward, the registers above Vx and memory as before, I moved only if the strap says so;
off the end of memory MemRange and no register loaded. -/
def Obligations.RegisterLoad : Prop :=
  EncodedAs 0xF065 0xF0FF (fun op => .ldVxMem (fieldX op)) ∧
  ∀ (x : Nibble) (s : State),
    (0xFFF < s.i.toNat + x.toNat → exec (.ldVxMem x) s = .fault (rangeFault s)) ∧
    (s.i.toNat + x.toNat ≤ 0xFFF → ∃ t, exec (.ldVxMem x) s = .next t ∧
      (∀ r : Nibble, t.reg r = if r.toNat ≤ x.toNat then s.readMem (s.i.toNat + r.toNat) else s.reg r) ∧
      IndexAfterTransfer x s t ∧ Advanced s t ∧ KeepsAllBut [.v, .i, .pc] s t)

/-- R63: a store is seen by a later fetch with nothing in between: a machine with the memory a register dump left runs, at
any place inside the dump, the word of the two registers stored there. -/
def Obligations.StoredCodeIsFetched : Prop :=
  ∀ (x r r' : Nibble) (s t u : State) (op : Word), exec (.ldMemVx x) s = .next t →
    r'.toNat = r.toNat + 1 → r'.toNat ≤ x.toNat → op.toNat = 256 * (s.reg r).toNat + (s.reg r').toNat →
    u.mem = t.mem → u.font = t.font → u.pc.toNat = s.i.toNat + r.toNat →
    u.coreStep = exec (decodeWord op) u

/-! ### Whole-machine rules -/

/-- R92: the program-counter policy, one class for each variant. -/
def Obligations.PcPolicy : Prop :=
  ∀ (i : Instr) (s t : State), exec i s = .next t →
    match i with
    | .jp nnn | .call nnn => t.pc.toNat = nnn.toNat
    | .ret _ => ∀ k : Fin 16, s.sp.toNat = k.val + 1 → t.pc.toNat = (s.stack[k].toNat + 2) % 65536
    | .jpV0 nnn => t.pc.toNat = (nnn.toNat + (s.reg 0).toNat) % 65536
    | .seImm x kk => if s.reg x = kk then Skipped s t else Advanced s t
    | .sneImm x kk => if s.reg x ≠ kk then Skipped s t else Advanced s t
    | .seReg x y _ => if s.reg x = s.reg y then Skipped s t else Advanced s t
    | .sneReg x y _ => if s.reg x ≠ s.reg y then Skipped s t else Advanced s t
    | .skp x => ∀ k : Nibble, k.toNat = (s.reg x).toNat → if s.key k = true then Skipped s t else Advanced s t
    | .sknp x => ∀ k : Nibble, k.toNat = (s.reg x).toNat → if s.key k = true then Advanced s t else Skipped s t
    | .ldVxK _ => (Advanced s t ∧ ∃ k : Nibble, s.key k = true) ∨ (t = s ∧ ∀ k : Nibble, s.key k = false)
    | _ => Advanced s t

/-- R181: which instruction can fault, on what, and with which fault and info (R180); the premise is part of `Invariant`. -/
def Obligations.FaultsAreTheTable : Prop :=
  ∀ (i : Instr) (s : State) (f : Fault), s.sp.toNat ≤ 16 →
    (exec i s = .fault f ↔
      match i with
      | .ret _ => s.sp.toNat = 0 ∧ f = .stackUnderflow s.pc
      | .call _ => s.sp.toNat = 16 ∧ f = .stackOverflow s.pc
      | .drw _ _ n => 1 ≤ n.toNat ∧ 0xFFF < s.i.toNat + n.toNat - 1 ∧ f = rangeFault s
      | .skp x | .sknp x => 0x0F < (s.reg x).toNat ∧ f = .keyIndex (BitVec.ofNat 16 (s.reg x).toNat)
      | .ldB _ => 0xFFF < s.i.toNat + 2 ∧ f = rangeFault s
      | .ldMemVx x | .ldVxMem x => 0xFFF < s.i.toNat + x.toNat ∧ f = rangeFault s
      | _ => False)

/-- R96, R220: no instruction is ever refused, and it answers a next state exactly where the program respects what R220
asks of it; everywhere else it is a fault. With SP above 16 that fault is the model's choice (log 8). -/
def Obligations.CompletesExactlyWhenRespected : Prop :=
  ∀ (i : Instr) (s : State),
    (Respects i s → ∃ t, exec i s = .next t) ∧ (¬Respects i s → ∃ f, exec i s = .fault f)

/-- R180, R184: the outcome port: code and info of each reported condition, FetchRange first; `WAIT` only for Fx0A with no
key pressed; else `OK`; code 0 accompanies these two. The premise is part of `Invariant`. -/
def Obligations.OutcomePortReports : Prop :=
  (PortOutcome.ok.code = 0 ∧ PortOutcome.wait.code = 0 ∧ ∀ code info, (PortOutcome.fault code info).code = code) ∧
  ∀ (s : State) (op : Word), s.sp.toNat ≤ 16 →
    op.toNat = 256 * (s.readMem s.pc.toNat).toNat + (s.readMem (s.pc.toNat + 1)).toNat →
    s.outcomePort = some (
      if 0x0FFE < s.pc.toNat then .fault 1 (BitVec.ofNat 16 (max s.pc.toNat 0x1000))
      else match decodeWord op with
        | .drw _ _ n =>
          if 1 ≤ n.toNat ∧ 0xFFF < s.i.toNat + n.toNat - 1 then .fault 2 (BitVec.ofNat 16 (max s.i.toNat 0x1000)) else .ok
        | .ldB _ => if 0xFFF < s.i.toNat + 2 then .fault 2 (BitVec.ofNat 16 (max s.i.toNat 0x1000)) else .ok
        | .ldMemVx x | .ldVxMem x =>
          if 0xFFF < s.i.toNat + x.toNat then .fault 2 (BitVec.ofNat 16 (max s.i.toNat 0x1000)) else .ok
        | .call _ => if s.sp = 16 then .fault 3 s.pc else .ok
        | .ret _ => if s.sp = 0 then .fault 4 s.pc else .ok
        | .skp x | .sknp x =>
          if 0x0F < (s.reg x).toNat then .fault 5 (BitVec.ofNat 16 (s.reg x).toNat) else .ok
        | .ldVxK _ => if ∃ k : Nibble, s.key k = true then .ok else .wait
        | _ => .ok)

/-- R183, R186 in the form of log 7: a faulted `Step` changes nothing of the core, the model's record gains the fault, and it
is not final: the driver's next event, whatever it is, happens in that state, and a `Reset` leads back to the entry point. -/
def Obligations.FaultIsNotFinal : Prop :=
  ∀ (s : State) (f : Fault), s.coreStep = .fault f → f.isReported = true →
    (∃ t, handle .step s = .next t ∧ t.faults = f :: s.faults ∧ KeepsAllBut [.faults] s t) ∧
    ∀ (e : Event) (later : List Event), s.schedule = .step :: e :: later →
      ∃ t, step s = .next t ∧ t.faults = f :: s.faults ∧ KeepsAllBut [.faults, .schedule] s t ∧
        step t = handle e { t with schedule := later } ∧
        ∀ image, e = .reset image → image.length ≤ 3584 → ∃ u, step t = .next u ∧ u.pc.toNat = 0x0200 ∧
          u.faults = f :: s.faults

/-- R186: no `Tick`, no `KeySet` and no further `Step` can clear the condition of a fault: the core faults again, the
same. -/
def Obligations.FaultRecurs : Prop :=
  ∀ (e : Event) (s t : State) (f : Fault), (e = .step ∨ e = .tick ∨ ∃ k b, e = .keySet k b) →
    s.coreStep = .fault f → handle e s = .next t → t.coreStep = .fault f

/-- R22, R23, R29, R31, R36, R37: an instruction writes only the parts, and only the registers, the spec names for it. -/
def Obligations.OnlyNamedStateIsWritten : Prop :=
  ∀ (i : Instr) (s t : State), exec i s = .next t →
    KeepsAllBut (.pc :: Writes i) s t ∧ ∀ r : Nibble, ¬WritesReg i r → t.reg r = s.reg r

/-- R30: nothing can observe the stack entries at SP and above: two states that differ there alone stay so. -/
def Obligations.PoppedEntriesUnobservable : Prop :=
  ∀ (i : Instr) (s t : State) (st' : Vector Word 16), (∀ k : Fin 16, k.val < s.sp.toNat → st'[k] = s.stack[k]) →
    exec i s = .next t →
    ∃ st'' : Vector Word 16, exec i { s with stack := st' } = .next { t with stack := st'' } ∧
      ∀ k : Fin 16, k.val < t.sp.toNat → st''[k] = t.stack[k]
end

