-- ==== Sys2Proof/Laws/Decode.lean ====
section
/-!
SUPPORT. The fields of a word built by a format, and the word rebuilt from its fields (spec/30_encoding.md R71, R72).
-/

namespace Sys2Proof

open Sys2Proof

/-! ### Format NNN -/

@[simp] theorem fieldC_formNNN (c : Nibble) (nnn : Addr) : fieldC (formNNN c nnn) = c := by
  unfold fieldC formNNN
  apply BitVec.eq_of_getLsbD_eq
  intro i hi
  simp only [BitVec.getLsbD_extractLsb', BitVec.getLsbD_append]
  interval_cases i <;> simp

@[simp] theorem fieldNNN_formNNN (c : Nibble) (nnn : Addr) : fieldNNN (formNNN c nnn) = nnn := by
  unfold fieldNNN formNNN
  apply BitVec.eq_of_getLsbD_eq
  intro i hi
  simp only [BitVec.getLsbD_extractLsb', BitVec.getLsbD_append]
  interval_cases i <;> simp

/-- A word is its fields, put together by the format. -/
theorem formNNN_fields (op : Word) : formNNN (fieldC op) (fieldNNN op) = op := by
  unfold formNNN fieldC fieldNNN
  apply BitVec.eq_of_getLsbD_eq
  intro i hi
  simp only [BitVec.getLsbD_extractLsb', BitVec.getLsbD_append]
  interval_cases i <;> simp

/-! ### Format XKK -/

@[simp] theorem fieldC_formXKK (c x : Nibble) (kk : Byte) : fieldC (formXKK c x kk) = c := by
  unfold fieldC formXKK
  apply BitVec.eq_of_getLsbD_eq
  intro i hi
  simp only [BitVec.getLsbD_extractLsb', BitVec.getLsbD_append]
  interval_cases i <;> simp

@[simp] theorem fieldX_formXKK (c x : Nibble) (kk : Byte) : fieldX (formXKK c x kk) = x := by
  unfold fieldX formXKK
  apply BitVec.eq_of_getLsbD_eq
  intro i hi
  simp only [BitVec.getLsbD_extractLsb', BitVec.getLsbD_append]
  interval_cases i <;> simp

@[simp] theorem fieldKK_formXKK (c x : Nibble) (kk : Byte) : fieldKK (formXKK c x kk) = kk := by
  unfold fieldKK formXKK
  apply BitVec.eq_of_getLsbD_eq
  intro i hi
  simp only [BitVec.getLsbD_extractLsb', BitVec.getLsbD_append]
  interval_cases i <;> simp

/-- A word is its fields, put together by the format. -/
theorem formXKK_fields (op : Word) : formXKK (fieldC op) (fieldX op) (fieldKK op) = op := by
  unfold formXKK fieldC fieldX fieldKK
  apply BitVec.eq_of_getLsbD_eq
  intro i hi
  simp only [BitVec.getLsbD_extractLsb', BitVec.getLsbD_append]
  interval_cases i <;> simp

/-! ### Format XYN -/

@[simp] theorem fieldC_formXYN (c x y n : Nibble) : fieldC (formXYN c x y n) = c := by
  unfold fieldC formXYN
  apply BitVec.eq_of_getLsbD_eq
  intro i hi
  simp only [BitVec.getLsbD_extractLsb', BitVec.getLsbD_append]
  interval_cases i <;> simp

@[simp] theorem fieldX_formXYN (c x y n : Nibble) : fieldX (formXYN c x y n) = x := by
  unfold fieldX formXYN
  apply BitVec.eq_of_getLsbD_eq
  intro i hi
  simp only [BitVec.getLsbD_extractLsb', BitVec.getLsbD_append]
  interval_cases i <;> simp

@[simp] theorem fieldY_formXYN (c x y n : Nibble) : fieldY (formXYN c x y n) = y := by
  unfold fieldY formXYN
  apply BitVec.eq_of_getLsbD_eq
  intro i hi
  simp only [BitVec.getLsbD_extractLsb', BitVec.getLsbD_append]
  interval_cases i <;> simp

@[simp] theorem fieldN_formXYN (c x y n : Nibble) : fieldN (formXYN c x y n) = n := by
  unfold fieldN formXYN
  apply BitVec.eq_of_getLsbD_eq
  intro i hi
  simp only [BitVec.getLsbD_extractLsb', BitVec.getLsbD_append]
  interval_cases i <;> simp

/-- A word is its fields, put together by the format. -/
theorem formXYN_fields (op : Word) : formXYN (fieldC op) (fieldX op) (fieldY op) (fieldN op) = op := by
  unfold formXYN fieldC fieldX fieldY fieldN
  apply BitVec.eq_of_getLsbD_eq
  intro i hi
  simp only [BitVec.getLsbD_extractLsb', BitVec.getLsbD_append]
  interval_cases i <;> simp

/-! ### Masks -/

theorem formNNN_category (c : Nibble) (nnn : Addr) : formNNN c nnn &&& 0xF000#16 = formNNN c 0 := by
  unfold formNNN
  apply BitVec.eq_of_getLsbD_eq
  intro i hi
  simp only [BitVec.getLsbD_and, BitVec.getLsbD_append]
  interval_cases i <;> simp

theorem formXKK_category (c x : Nibble) (kk : Byte) : formXKK c x kk &&& 0xF000#16 = formXKK c 0 0 := by
  unfold formXKK
  apply BitVec.eq_of_getLsbD_eq
  intro i hi
  simp only [BitVec.getLsbD_and, BitVec.getLsbD_append]
  interval_cases i <;> simp

theorem formXKK_low (c x : Nibble) (kk : Byte) : formXKK c x kk &&& 0xF0FF#16 = formXKK c 0 kk := by
  unfold formXKK
  apply BitVec.eq_of_getLsbD_eq
  intro i hi
  simp only [BitVec.getLsbD_and, BitVec.getLsbD_append]
  interval_cases i <;> simp

theorem formXYN_category (c x y n : Nibble) : formXYN c x y n &&& 0xF000#16 = formXYN c 0 0 0 := by
  unfold formXYN
  apply BitVec.eq_of_getLsbD_eq
  intro i hi
  simp only [BitVec.getLsbD_and, BitVec.getLsbD_append]
  interval_cases i <;> simp

theorem formXYN_low (c x y n : Nibble) : formXYN c x y n &&& 0xF00F#16 = formXYN c 0 0 n := by
  unfold formXYN
  apply BitVec.eq_of_getLsbD_eq
  intro i hi
  simp only [BitVec.getLsbD_and, BitVec.getLsbD_append]
  interval_cases i <;> simp

/-! ### Bytes in memory order (spec/20_memory.md R50) -/

@[simp] theorem wordOfBytes_bytes (op : Word) : wordOfBytes (highByte op) (lowByte op) = op := by
  unfold wordOfBytes highByte lowByte
  apply BitVec.eq_of_getLsbD_eq
  intro i hi
  simp only [BitVec.getLsbD_extractLsb', BitVec.getLsbD_append]
  interval_cases i <;> simp

/-- Two bytes decode to the variant of the word they make, and the bytes after them are left. -/
theorem decode_pair (hi lo : Byte) (rest : List Byte) :
    decode (hi :: lo :: rest) = .ok (decodeWord (wordOfBytes hi lo), rest) := rfl

end Sys2Proof
end

