-- ==== Sys2Proof/Laws/State.lean ====
section
/-!
SUPPORT. What each update of the state leaves in each field and shows to each read, so that no later proof unfolds a record
update: one lemma per update and field.
-/

namespace Sys2Proof.Machine

open Sys2Proof
/-! ### `State.setReg` -/
@[simp] theorem State.setReg_i (s : State) (x : Nibble) (b : Byte) : (s.setReg x b).i = s.i := rfl
@[simp] theorem State.setReg_pc (s : State) (x : Nibble) (b : Byte) : (s.setReg x b).pc = s.pc := rfl
@[simp] theorem State.setReg_sp (s : State) (x : Nibble) (b : Byte) : (s.setReg x b).sp = s.sp := rfl
@[simp] theorem State.setReg_stack (s : State) (x : Nibble) (b : Byte) : (s.setReg x b).stack = s.stack := rfl
@[simp] theorem State.setReg_dt (s : State) (x : Nibble) (b : Byte) : (s.setReg x b).dt = s.dt := rfl
@[simp] theorem State.setReg_st (s : State) (x : Nibble) (b : Byte) : (s.setReg x b).st = s.st := rfl
@[simp] theorem State.setReg_keys (s : State) (x : Nibble) (b : Byte) : (s.setReg x b).keys = s.keys := rfl
@[simp] theorem State.setReg_fb (s : State) (x : Nibble) (b : Byte) : (s.setReg x b).fb = s.fb := rfl
@[simp] theorem State.setReg_mem (s : State) (x : Nibble) (b : Byte) : (s.setReg x b).mem = s.mem := rfl
@[simp] theorem State.setReg_ldstIncI (s : State) (x : Nibble) (b : Byte) : (s.setReg x b).ldstIncI = s.ldstIncI := rfl
@[simp] theorem State.setReg_font (s : State) (x : Nibble) (b : Byte) : (s.setReg x b).font = s.font := rfl
@[simp] theorem State.setReg_draws (s : State) (x : Nibble) (b : Byte) : (s.setReg x b).draws = s.draws := rfl
@[simp] theorem State.setReg_schedule (s : State) (x : Nibble) (b : Byte) : (s.setReg x b).schedule = s.schedule := rfl
@[simp] theorem State.setReg_driver (s : State) (x : Nibble) (b : Byte) : (s.setReg x b).driver = s.driver := rfl
@[simp] theorem State.setReg_faults (s : State) (x : Nibble) (b : Byte) : (s.setReg x b).faults = s.faults := rfl
@[simp] theorem State.setReg_key (s : State) (x : Nibble) (b : Byte) (k' : Nibble) : (s.setReg x b).key k' = s.key k' := rfl
@[simp] theorem State.setReg_pixel (s : State) (x : Nibble) (b : Byte) (px : Fin 64) (py : Fin 32) : (s.setReg x b).pixel px py = s.pixel px py := rfl
@[simp] theorem State.setReg_readMem (s : State) (x : Nibble) (b : Byte) (n : Nat) : (s.setReg x b).readMem n = s.readMem n := rfl
/-! ### `State.setI` -/
@[simp] theorem State.setI_v (s : State) (a : Word) : (s.setI a).v = s.v := rfl
@[simp] theorem State.setI_i (s : State) (a : Word) : (s.setI a).i = a := rfl
@[simp] theorem State.setI_pc (s : State) (a : Word) : (s.setI a).pc = s.pc := rfl
@[simp] theorem State.setI_sp (s : State) (a : Word) : (s.setI a).sp = s.sp := rfl
@[simp] theorem State.setI_stack (s : State) (a : Word) : (s.setI a).stack = s.stack := rfl
@[simp] theorem State.setI_dt (s : State) (a : Word) : (s.setI a).dt = s.dt := rfl
@[simp] theorem State.setI_st (s : State) (a : Word) : (s.setI a).st = s.st := rfl
@[simp] theorem State.setI_keys (s : State) (a : Word) : (s.setI a).keys = s.keys := rfl
@[simp] theorem State.setI_fb (s : State) (a : Word) : (s.setI a).fb = s.fb := rfl
@[simp] theorem State.setI_mem (s : State) (a : Word) : (s.setI a).mem = s.mem := rfl
@[simp] theorem State.setI_ldstIncI (s : State) (a : Word) : (s.setI a).ldstIncI = s.ldstIncI := rfl
@[simp] theorem State.setI_font (s : State) (a : Word) : (s.setI a).font = s.font := rfl
@[simp] theorem State.setI_draws (s : State) (a : Word) : (s.setI a).draws = s.draws := rfl
@[simp] theorem State.setI_schedule (s : State) (a : Word) : (s.setI a).schedule = s.schedule := rfl
@[simp] theorem State.setI_driver (s : State) (a : Word) : (s.setI a).driver = s.driver := rfl
@[simp] theorem State.setI_faults (s : State) (a : Word) : (s.setI a).faults = s.faults := rfl
@[simp] theorem State.setI_reg (s : State) (a : Word) (r : Nibble) : (s.setI a).reg r = s.reg r := rfl
@[simp] theorem State.setI_key (s : State) (a : Word) (k' : Nibble) : (s.setI a).key k' = s.key k' := rfl
@[simp] theorem State.setI_pixel (s : State) (a : Word) (px : Fin 64) (py : Fin 32) : (s.setI a).pixel px py = s.pixel px py := rfl
@[simp] theorem State.setI_readMem (s : State) (a : Word) (n : Nat) : (s.setI a).readMem n = s.readMem n := rfl
/-! ### `State.setDt` -/
@[simp] theorem State.setDt_v (s : State) (b : Byte) : (s.setDt b).v = s.v := rfl
@[simp] theorem State.setDt_i (s : State) (b : Byte) : (s.setDt b).i = s.i := rfl
@[simp] theorem State.setDt_pc (s : State) (b : Byte) : (s.setDt b).pc = s.pc := rfl
@[simp] theorem State.setDt_sp (s : State) (b : Byte) : (s.setDt b).sp = s.sp := rfl
@[simp] theorem State.setDt_stack (s : State) (b : Byte) : (s.setDt b).stack = s.stack := rfl
@[simp] theorem State.setDt_dt (s : State) (b : Byte) : (s.setDt b).dt = b := rfl
@[simp] theorem State.setDt_st (s : State) (b : Byte) : (s.setDt b).st = s.st := rfl
@[simp] theorem State.setDt_keys (s : State) (b : Byte) : (s.setDt b).keys = s.keys := rfl
@[simp] theorem State.setDt_fb (s : State) (b : Byte) : (s.setDt b).fb = s.fb := rfl
@[simp] theorem State.setDt_mem (s : State) (b : Byte) : (s.setDt b).mem = s.mem := rfl
@[simp] theorem State.setDt_ldstIncI (s : State) (b : Byte) : (s.setDt b).ldstIncI = s.ldstIncI := rfl
@[simp] theorem State.setDt_font (s : State) (b : Byte) : (s.setDt b).font = s.font := rfl
@[simp] theorem State.setDt_draws (s : State) (b : Byte) : (s.setDt b).draws = s.draws := rfl
@[simp] theorem State.setDt_schedule (s : State) (b : Byte) : (s.setDt b).schedule = s.schedule := rfl
@[simp] theorem State.setDt_driver (s : State) (b : Byte) : (s.setDt b).driver = s.driver := rfl
@[simp] theorem State.setDt_faults (s : State) (b : Byte) : (s.setDt b).faults = s.faults := rfl
@[simp] theorem State.setDt_reg (s : State) (b : Byte) (r : Nibble) : (s.setDt b).reg r = s.reg r := rfl
@[simp] theorem State.setDt_key (s : State) (b : Byte) (k' : Nibble) : (s.setDt b).key k' = s.key k' := rfl
@[simp] theorem State.setDt_pixel (s : State) (b : Byte) (px : Fin 64) (py : Fin 32) : (s.setDt b).pixel px py = s.pixel px py := rfl
@[simp] theorem State.setDt_readMem (s : State) (b : Byte) (n : Nat) : (s.setDt b).readMem n = s.readMem n := rfl
/-! ### `State.setSt` -/
@[simp] theorem State.setSt_v (s : State) (b : Byte) : (s.setSt b).v = s.v := rfl
@[simp] theorem State.setSt_i (s : State) (b : Byte) : (s.setSt b).i = s.i := rfl
@[simp] theorem State.setSt_pc (s : State) (b : Byte) : (s.setSt b).pc = s.pc := rfl
@[simp] theorem State.setSt_sp (s : State) (b : Byte) : (s.setSt b).sp = s.sp := rfl
@[simp] theorem State.setSt_stack (s : State) (b : Byte) : (s.setSt b).stack = s.stack := rfl
@[simp] theorem State.setSt_dt (s : State) (b : Byte) : (s.setSt b).dt = s.dt := rfl
@[simp] theorem State.setSt_st (s : State) (b : Byte) : (s.setSt b).st = b := rfl
@[simp] theorem State.setSt_keys (s : State) (b : Byte) : (s.setSt b).keys = s.keys := rfl
@[simp] theorem State.setSt_fb (s : State) (b : Byte) : (s.setSt b).fb = s.fb := rfl
@[simp] theorem State.setSt_mem (s : State) (b : Byte) : (s.setSt b).mem = s.mem := rfl
@[simp] theorem State.setSt_ldstIncI (s : State) (b : Byte) : (s.setSt b).ldstIncI = s.ldstIncI := rfl
@[simp] theorem State.setSt_font (s : State) (b : Byte) : (s.setSt b).font = s.font := rfl
@[simp] theorem State.setSt_draws (s : State) (b : Byte) : (s.setSt b).draws = s.draws := rfl
@[simp] theorem State.setSt_schedule (s : State) (b : Byte) : (s.setSt b).schedule = s.schedule := rfl
@[simp] theorem State.setSt_driver (s : State) (b : Byte) : (s.setSt b).driver = s.driver := rfl
@[simp] theorem State.setSt_faults (s : State) (b : Byte) : (s.setSt b).faults = s.faults := rfl
@[simp] theorem State.setSt_reg (s : State) (b : Byte) (r : Nibble) : (s.setSt b).reg r = s.reg r := rfl
@[simp] theorem State.setSt_key (s : State) (b : Byte) (k' : Nibble) : (s.setSt b).key k' = s.key k' := rfl
@[simp] theorem State.setSt_pixel (s : State) (b : Byte) (px : Fin 64) (py : Fin 32) : (s.setSt b).pixel px py = s.pixel px py := rfl
@[simp] theorem State.setSt_readMem (s : State) (b : Byte) (n : Nat) : (s.setSt b).readMem n = s.readMem n := rfl
/-! ### `State.setKey` -/
@[simp] theorem State.setKey_v (s : State) (k : Nibble) (b : Bool) : (s.setKey k b).v = s.v := rfl
@[simp] theorem State.setKey_i (s : State) (k : Nibble) (b : Bool) : (s.setKey k b).i = s.i := rfl
@[simp] theorem State.setKey_pc (s : State) (k : Nibble) (b : Bool) : (s.setKey k b).pc = s.pc := rfl
@[simp] theorem State.setKey_sp (s : State) (k : Nibble) (b : Bool) : (s.setKey k b).sp = s.sp := rfl
@[simp] theorem State.setKey_stack (s : State) (k : Nibble) (b : Bool) : (s.setKey k b).stack = s.stack := rfl
@[simp] theorem State.setKey_dt (s : State) (k : Nibble) (b : Bool) : (s.setKey k b).dt = s.dt := rfl
@[simp] theorem State.setKey_st (s : State) (k : Nibble) (b : Bool) : (s.setKey k b).st = s.st := rfl
@[simp] theorem State.setKey_fb (s : State) (k : Nibble) (b : Bool) : (s.setKey k b).fb = s.fb := rfl
@[simp] theorem State.setKey_mem (s : State) (k : Nibble) (b : Bool) : (s.setKey k b).mem = s.mem := rfl
@[simp] theorem State.setKey_ldstIncI (s : State) (k : Nibble) (b : Bool) : (s.setKey k b).ldstIncI = s.ldstIncI := rfl
@[simp] theorem State.setKey_font (s : State) (k : Nibble) (b : Bool) : (s.setKey k b).font = s.font := rfl
@[simp] theorem State.setKey_draws (s : State) (k : Nibble) (b : Bool) : (s.setKey k b).draws = s.draws := rfl
@[simp] theorem State.setKey_schedule (s : State) (k : Nibble) (b : Bool) : (s.setKey k b).schedule = s.schedule := rfl
@[simp] theorem State.setKey_driver (s : State) (k : Nibble) (b : Bool) : (s.setKey k b).driver = s.driver := rfl
@[simp] theorem State.setKey_faults (s : State) (k : Nibble) (b : Bool) : (s.setKey k b).faults = s.faults := rfl
@[simp] theorem State.setKey_reg (s : State) (k : Nibble) (b : Bool) (r : Nibble) : (s.setKey k b).reg r = s.reg r := rfl
@[simp] theorem State.setKey_pixel (s : State) (k : Nibble) (b : Bool) (px : Fin 64) (py : Fin 32) : (s.setKey k b).pixel px py = s.pixel px py := rfl
@[simp] theorem State.setKey_readMem (s : State) (k : Nibble) (b : Bool) (n : Nat) : (s.setKey k b).readMem n = s.readMem n := rfl
/-! ### `State.jump` -/
@[simp] theorem State.jump_v (s : State) (a : Word) : (s.jump a).v = s.v := rfl
@[simp] theorem State.jump_i (s : State) (a : Word) : (s.jump a).i = s.i := rfl
@[simp] theorem State.jump_pc (s : State) (a : Word) : (s.jump a).pc = a := rfl
@[simp] theorem State.jump_sp (s : State) (a : Word) : (s.jump a).sp = s.sp := rfl
@[simp] theorem State.jump_stack (s : State) (a : Word) : (s.jump a).stack = s.stack := rfl
@[simp] theorem State.jump_dt (s : State) (a : Word) : (s.jump a).dt = s.dt := rfl
@[simp] theorem State.jump_st (s : State) (a : Word) : (s.jump a).st = s.st := rfl
@[simp] theorem State.jump_keys (s : State) (a : Word) : (s.jump a).keys = s.keys := rfl
@[simp] theorem State.jump_fb (s : State) (a : Word) : (s.jump a).fb = s.fb := rfl
@[simp] theorem State.jump_mem (s : State) (a : Word) : (s.jump a).mem = s.mem := rfl
@[simp] theorem State.jump_ldstIncI (s : State) (a : Word) : (s.jump a).ldstIncI = s.ldstIncI := rfl
@[simp] theorem State.jump_font (s : State) (a : Word) : (s.jump a).font = s.font := rfl
@[simp] theorem State.jump_draws (s : State) (a : Word) : (s.jump a).draws = s.draws := rfl
@[simp] theorem State.jump_schedule (s : State) (a : Word) : (s.jump a).schedule = s.schedule := rfl
@[simp] theorem State.jump_driver (s : State) (a : Word) : (s.jump a).driver = s.driver := rfl
@[simp] theorem State.jump_faults (s : State) (a : Word) : (s.jump a).faults = s.faults := rfl
@[simp] theorem State.jump_reg (s : State) (a : Word) (r : Nibble) : (s.jump a).reg r = s.reg r := rfl
@[simp] theorem State.jump_key (s : State) (a : Word) (k' : Nibble) : (s.jump a).key k' = s.key k' := rfl
@[simp] theorem State.jump_pixel (s : State) (a : Word) (px : Fin 64) (py : Fin 32) : (s.jump a).pixel px py = s.pixel px py := rfl
@[simp] theorem State.jump_readMem (s : State) (a : Word) (n : Nat) : (s.jump a).readMem n = s.readMem n := rfl
/-! ### `State.advance` -/
@[simp] theorem State.advance_v (s : State) : s.advance.v = s.v := rfl
@[simp] theorem State.advance_i (s : State) : s.advance.i = s.i := rfl
@[simp] theorem State.advance_pc (s : State) : s.advance.pc = s.pc + 2 := rfl
@[simp] theorem State.advance_sp (s : State) : s.advance.sp = s.sp := rfl
@[simp] theorem State.advance_stack (s : State) : s.advance.stack = s.stack := rfl
@[simp] theorem State.advance_dt (s : State) : s.advance.dt = s.dt := rfl
@[simp] theorem State.advance_st (s : State) : s.advance.st = s.st := rfl
@[simp] theorem State.advance_keys (s : State) : s.advance.keys = s.keys := rfl
@[simp] theorem State.advance_fb (s : State) : s.advance.fb = s.fb := rfl
@[simp] theorem State.advance_mem (s : State) : s.advance.mem = s.mem := rfl
@[simp] theorem State.advance_ldstIncI (s : State) : s.advance.ldstIncI = s.ldstIncI := rfl
@[simp] theorem State.advance_font (s : State) : s.advance.font = s.font := rfl
@[simp] theorem State.advance_draws (s : State) : s.advance.draws = s.draws := rfl
@[simp] theorem State.advance_schedule (s : State) : s.advance.schedule = s.schedule := rfl
@[simp] theorem State.advance_driver (s : State) : s.advance.driver = s.driver := rfl
@[simp] theorem State.advance_faults (s : State) : s.advance.faults = s.faults := rfl
@[simp] theorem State.advance_reg (s : State) (r : Nibble) : s.advance.reg r = s.reg r := rfl
@[simp] theorem State.advance_key (s : State) (k' : Nibble) : s.advance.key k' = s.key k' := rfl
@[simp] theorem State.advance_pixel (s : State) (px : Fin 64) (py : Fin 32) : s.advance.pixel px py = s.pixel px py := rfl
@[simp] theorem State.advance_readMem (s : State) (n : Nat) : s.advance.readMem n = s.readMem n := rfl
/-! ### `State.skip` -/
@[simp] theorem State.skip_v (s : State) : s.skip.v = s.v := rfl
@[simp] theorem State.skip_i (s : State) : s.skip.i = s.i := rfl
@[simp] theorem State.skip_pc (s : State) : s.skip.pc = s.pc + 4 := rfl
@[simp] theorem State.skip_sp (s : State) : s.skip.sp = s.sp := rfl
@[simp] theorem State.skip_stack (s : State) : s.skip.stack = s.stack := rfl
@[simp] theorem State.skip_dt (s : State) : s.skip.dt = s.dt := rfl
@[simp] theorem State.skip_st (s : State) : s.skip.st = s.st := rfl
@[simp] theorem State.skip_keys (s : State) : s.skip.keys = s.keys := rfl
@[simp] theorem State.skip_fb (s : State) : s.skip.fb = s.fb := rfl
@[simp] theorem State.skip_mem (s : State) : s.skip.mem = s.mem := rfl
@[simp] theorem State.skip_ldstIncI (s : State) : s.skip.ldstIncI = s.ldstIncI := rfl
@[simp] theorem State.skip_font (s : State) : s.skip.font = s.font := rfl
@[simp] theorem State.skip_draws (s : State) : s.skip.draws = s.draws := rfl
@[simp] theorem State.skip_schedule (s : State) : s.skip.schedule = s.schedule := rfl
@[simp] theorem State.skip_driver (s : State) : s.skip.driver = s.driver := rfl
@[simp] theorem State.skip_faults (s : State) : s.skip.faults = s.faults := rfl
@[simp] theorem State.skip_reg (s : State) (r : Nibble) : s.skip.reg r = s.reg r := rfl
@[simp] theorem State.skip_key (s : State) (k' : Nibble) : s.skip.key k' = s.key k' := rfl
@[simp] theorem State.skip_pixel (s : State) (px : Fin 64) (py : Fin 32) : s.skip.pixel px py = s.pixel px py := rfl
@[simp] theorem State.skip_readMem (s : State) (n : Nat) : s.skip.readMem n = s.readMem n := rfl
/-! ### `State.push` -/
@[simp] theorem State.push_v (s : State) (a : Word) (h : s.sp.toNat < 16) : (s.push a h).v = s.v := rfl
@[simp] theorem State.push_i (s : State) (a : Word) (h : s.sp.toNat < 16) : (s.push a h).i = s.i := rfl
@[simp] theorem State.push_pc (s : State) (a : Word) (h : s.sp.toNat < 16) : (s.push a h).pc = s.pc := rfl
@[simp] theorem State.push_sp (s : State) (a : Word) (h : s.sp.toNat < 16) : (s.push a h).sp = s.sp + 1 := rfl
@[simp] theorem State.push_stack (s : State) (a : Word) (h : s.sp.toNat < 16) : (s.push a h).stack = s.stack.set s.sp.toNat a h := rfl
@[simp] theorem State.push_dt (s : State) (a : Word) (h : s.sp.toNat < 16) : (s.push a h).dt = s.dt := rfl
@[simp] theorem State.push_st (s : State) (a : Word) (h : s.sp.toNat < 16) : (s.push a h).st = s.st := rfl
@[simp] theorem State.push_keys (s : State) (a : Word) (h : s.sp.toNat < 16) : (s.push a h).keys = s.keys := rfl
@[simp] theorem State.push_fb (s : State) (a : Word) (h : s.sp.toNat < 16) : (s.push a h).fb = s.fb := rfl
@[simp] theorem State.push_mem (s : State) (a : Word) (h : s.sp.toNat < 16) : (s.push a h).mem = s.mem := rfl
@[simp] theorem State.push_ldstIncI (s : State) (a : Word) (h : s.sp.toNat < 16) : (s.push a h).ldstIncI = s.ldstIncI := rfl
@[simp] theorem State.push_font (s : State) (a : Word) (h : s.sp.toNat < 16) : (s.push a h).font = s.font := rfl
@[simp] theorem State.push_draws (s : State) (a : Word) (h : s.sp.toNat < 16) : (s.push a h).draws = s.draws := rfl
@[simp] theorem State.push_schedule (s : State) (a : Word) (h : s.sp.toNat < 16) : (s.push a h).schedule = s.schedule := rfl
@[simp] theorem State.push_driver (s : State) (a : Word) (h : s.sp.toNat < 16) : (s.push a h).driver = s.driver := rfl
@[simp] theorem State.push_faults (s : State) (a : Word) (h : s.sp.toNat < 16) : (s.push a h).faults = s.faults := rfl
@[simp] theorem State.push_reg (s : State) (a : Word) (h : s.sp.toNat < 16) (r : Nibble) : (s.push a h).reg r = s.reg r := rfl
@[simp] theorem State.push_key (s : State) (a : Word) (h : s.sp.toNat < 16) (k' : Nibble) : (s.push a h).key k' = s.key k' := rfl
@[simp] theorem State.push_pixel (s : State) (a : Word) (h : s.sp.toNat < 16) (px : Fin 64) (py : Fin 32) : (s.push a h).pixel px py = s.pixel px py := rfl
@[simp] theorem State.push_readMem (s : State) (a : Word) (h : s.sp.toNat < 16) (n : Nat) : (s.push a h).readMem n = s.readMem n := rfl
/-! ### `State.pop` -/
@[simp] theorem State.pop_v (s : State) : s.pop.v = s.v := rfl
@[simp] theorem State.pop_i (s : State) : s.pop.i = s.i := rfl
@[simp] theorem State.pop_pc (s : State) : s.pop.pc = s.pc := rfl
@[simp] theorem State.pop_sp (s : State) : s.pop.sp = s.sp - 1 := rfl
@[simp] theorem State.pop_stack (s : State) : s.pop.stack = s.stack := rfl
@[simp] theorem State.pop_dt (s : State) : s.pop.dt = s.dt := rfl
@[simp] theorem State.pop_st (s : State) : s.pop.st = s.st := rfl
@[simp] theorem State.pop_keys (s : State) : s.pop.keys = s.keys := rfl
@[simp] theorem State.pop_fb (s : State) : s.pop.fb = s.fb := rfl
@[simp] theorem State.pop_mem (s : State) : s.pop.mem = s.mem := rfl
@[simp] theorem State.pop_ldstIncI (s : State) : s.pop.ldstIncI = s.ldstIncI := rfl
@[simp] theorem State.pop_font (s : State) : s.pop.font = s.font := rfl
@[simp] theorem State.pop_draws (s : State) : s.pop.draws = s.draws := rfl
@[simp] theorem State.pop_schedule (s : State) : s.pop.schedule = s.schedule := rfl
@[simp] theorem State.pop_driver (s : State) : s.pop.driver = s.driver := rfl
@[simp] theorem State.pop_faults (s : State) : s.pop.faults = s.faults := rfl
@[simp] theorem State.pop_reg (s : State) (r : Nibble) : s.pop.reg r = s.reg r := rfl
@[simp] theorem State.pop_key (s : State) (k' : Nibble) : s.pop.key k' = s.key k' := rfl
@[simp] theorem State.pop_pixel (s : State) (px : Fin 64) (py : Fin 32) : s.pop.pixel px py = s.pixel px py := rfl
@[simp] theorem State.pop_readMem (s : State) (n : Nat) : s.pop.readMem n = s.readMem n := rfl
/-! ### `State.setFb` -/
@[simp] theorem State.setFb_v (s : State) (g : Pixels) : (s.setFb g).v = s.v := rfl
@[simp] theorem State.setFb_i (s : State) (g : Pixels) : (s.setFb g).i = s.i := rfl
@[simp] theorem State.setFb_pc (s : State) (g : Pixels) : (s.setFb g).pc = s.pc := rfl
@[simp] theorem State.setFb_sp (s : State) (g : Pixels) : (s.setFb g).sp = s.sp := rfl
@[simp] theorem State.setFb_stack (s : State) (g : Pixels) : (s.setFb g).stack = s.stack := rfl
@[simp] theorem State.setFb_dt (s : State) (g : Pixels) : (s.setFb g).dt = s.dt := rfl
@[simp] theorem State.setFb_st (s : State) (g : Pixels) : (s.setFb g).st = s.st := rfl
@[simp] theorem State.setFb_keys (s : State) (g : Pixels) : (s.setFb g).keys = s.keys := rfl
@[simp] theorem State.setFb_fb (s : State) (g : Pixels) : (s.setFb g).fb = g := rfl
@[simp] theorem State.setFb_mem (s : State) (g : Pixels) : (s.setFb g).mem = s.mem := rfl
@[simp] theorem State.setFb_ldstIncI (s : State) (g : Pixels) : (s.setFb g).ldstIncI = s.ldstIncI := rfl
@[simp] theorem State.setFb_font (s : State) (g : Pixels) : (s.setFb g).font = s.font := rfl
@[simp] theorem State.setFb_draws (s : State) (g : Pixels) : (s.setFb g).draws = s.draws := rfl
@[simp] theorem State.setFb_schedule (s : State) (g : Pixels) : (s.setFb g).schedule = s.schedule := rfl
@[simp] theorem State.setFb_driver (s : State) (g : Pixels) : (s.setFb g).driver = s.driver := rfl
@[simp] theorem State.setFb_faults (s : State) (g : Pixels) : (s.setFb g).faults = s.faults := rfl
@[simp] theorem State.setFb_reg (s : State) (g : Pixels) (r : Nibble) : (s.setFb g).reg r = s.reg r := rfl
@[simp] theorem State.setFb_key (s : State) (g : Pixels) (k' : Nibble) : (s.setFb g).key k' = s.key k' := rfl
@[simp] theorem State.setFb_readMem (s : State) (g : Pixels) (n : Nat) : (s.setFb g).readMem n = s.readMem n := rfl
/-! ### `State.drawn` -/
@[simp] theorem State.drawn_v (s : State) : s.drawn.v = s.v := rfl
@[simp] theorem State.drawn_i (s : State) : s.drawn.i = s.i := rfl
@[simp] theorem State.drawn_pc (s : State) : s.drawn.pc = s.pc := rfl
@[simp] theorem State.drawn_sp (s : State) : s.drawn.sp = s.sp := rfl
@[simp] theorem State.drawn_stack (s : State) : s.drawn.stack = s.stack := rfl
@[simp] theorem State.drawn_dt (s : State) : s.drawn.dt = s.dt := rfl
@[simp] theorem State.drawn_st (s : State) : s.drawn.st = s.st := rfl
@[simp] theorem State.drawn_keys (s : State) : s.drawn.keys = s.keys := rfl
@[simp] theorem State.drawn_fb (s : State) : s.drawn.fb = s.fb := rfl
@[simp] theorem State.drawn_mem (s : State) : s.drawn.mem = s.mem := rfl
@[simp] theorem State.drawn_ldstIncI (s : State) : s.drawn.ldstIncI = s.ldstIncI := rfl
@[simp] theorem State.drawn_font (s : State) : s.drawn.font = s.font := rfl
@[simp] theorem State.drawn_draws (s : State) : s.drawn.draws = s.draws + 1 := rfl
@[simp] theorem State.drawn_schedule (s : State) : s.drawn.schedule = s.schedule := rfl
@[simp] theorem State.drawn_driver (s : State) : s.drawn.driver = s.driver := rfl
@[simp] theorem State.drawn_faults (s : State) : s.drawn.faults = s.faults := rfl
@[simp] theorem State.drawn_reg (s : State) (r : Nibble) : s.drawn.reg r = s.reg r := rfl
@[simp] theorem State.drawn_key (s : State) (k' : Nibble) : s.drawn.key k' = s.key k' := rfl
@[simp] theorem State.drawn_pixel (s : State) (px : Fin 64) (py : Fin 32) : s.drawn.pixel px py = s.pixel px py := rfl
@[simp] theorem State.drawn_readMem (s : State) (n : Nat) : s.drawn.readMem n = s.readMem n := rfl
/-! ### `State.writeMem` -/
@[simp] theorem State.writeMem_v (s : State) (a : Nat) (b : Byte) : (s.writeMem a b).v = s.v := rfl
@[simp] theorem State.writeMem_i (s : State) (a : Nat) (b : Byte) : (s.writeMem a b).i = s.i := rfl
@[simp] theorem State.writeMem_pc (s : State) (a : Nat) (b : Byte) : (s.writeMem a b).pc = s.pc := rfl
@[simp] theorem State.writeMem_sp (s : State) (a : Nat) (b : Byte) : (s.writeMem a b).sp = s.sp := rfl
@[simp] theorem State.writeMem_stack (s : State) (a : Nat) (b : Byte) : (s.writeMem a b).stack = s.stack := rfl
@[simp] theorem State.writeMem_dt (s : State) (a : Nat) (b : Byte) : (s.writeMem a b).dt = s.dt := rfl
@[simp] theorem State.writeMem_st (s : State) (a : Nat) (b : Byte) : (s.writeMem a b).st = s.st := rfl
@[simp] theorem State.writeMem_keys (s : State) (a : Nat) (b : Byte) : (s.writeMem a b).keys = s.keys := rfl
@[simp] theorem State.writeMem_fb (s : State) (a : Nat) (b : Byte) : (s.writeMem a b).fb = s.fb := rfl
@[simp] theorem State.writeMem_ldstIncI (s : State) (a : Nat) (b : Byte) : (s.writeMem a b).ldstIncI = s.ldstIncI := rfl
@[simp] theorem State.writeMem_font (s : State) (a : Nat) (b : Byte) : (s.writeMem a b).font = s.font := rfl
@[simp] theorem State.writeMem_draws (s : State) (a : Nat) (b : Byte) : (s.writeMem a b).draws = s.draws := rfl
@[simp] theorem State.writeMem_schedule (s : State) (a : Nat) (b : Byte) : (s.writeMem a b).schedule = s.schedule := rfl
@[simp] theorem State.writeMem_driver (s : State) (a : Nat) (b : Byte) : (s.writeMem a b).driver = s.driver := rfl
@[simp] theorem State.writeMem_faults (s : State) (a : Nat) (b : Byte) : (s.writeMem a b).faults = s.faults := rfl
@[simp] theorem State.writeMem_reg (s : State) (a : Nat) (b : Byte) (r : Nibble) : (s.writeMem a b).reg r = s.reg r := rfl
@[simp] theorem State.writeMem_key (s : State) (a : Nat) (b : Byte) (k' : Nibble) : (s.writeMem a b).key k' = s.key k' := rfl
@[simp] theorem State.writeMem_pixel (s : State) (a : Nat) (b : Byte) (px : Fin 64) (py : Fin 32) : (s.writeMem a b).pixel px py = s.pixel px py := rfl
/-! ### `State.storeBytes` -/
@[simp] theorem State.storeBytes_v (s : State) (a : Nat) (bs : List Byte) : (s.storeBytes a bs).v = s.v := rfl
@[simp] theorem State.storeBytes_i (s : State) (a : Nat) (bs : List Byte) : (s.storeBytes a bs).i = s.i := rfl
@[simp] theorem State.storeBytes_pc (s : State) (a : Nat) (bs : List Byte) : (s.storeBytes a bs).pc = s.pc := rfl
@[simp] theorem State.storeBytes_sp (s : State) (a : Nat) (bs : List Byte) : (s.storeBytes a bs).sp = s.sp := rfl
@[simp] theorem State.storeBytes_stack (s : State) (a : Nat) (bs : List Byte) : (s.storeBytes a bs).stack = s.stack := rfl
@[simp] theorem State.storeBytes_dt (s : State) (a : Nat) (bs : List Byte) : (s.storeBytes a bs).dt = s.dt := rfl
@[simp] theorem State.storeBytes_st (s : State) (a : Nat) (bs : List Byte) : (s.storeBytes a bs).st = s.st := rfl
@[simp] theorem State.storeBytes_keys (s : State) (a : Nat) (bs : List Byte) : (s.storeBytes a bs).keys = s.keys := rfl
@[simp] theorem State.storeBytes_fb (s : State) (a : Nat) (bs : List Byte) : (s.storeBytes a bs).fb = s.fb := rfl
@[simp] theorem State.storeBytes_ldstIncI (s : State) (a : Nat) (bs : List Byte) : (s.storeBytes a bs).ldstIncI = s.ldstIncI := rfl
@[simp] theorem State.storeBytes_font (s : State) (a : Nat) (bs : List Byte) : (s.storeBytes a bs).font = s.font := rfl
@[simp] theorem State.storeBytes_draws (s : State) (a : Nat) (bs : List Byte) : (s.storeBytes a bs).draws = s.draws := rfl
@[simp] theorem State.storeBytes_schedule (s : State) (a : Nat) (bs : List Byte) : (s.storeBytes a bs).schedule = s.schedule := rfl
@[simp] theorem State.storeBytes_driver (s : State) (a : Nat) (bs : List Byte) : (s.storeBytes a bs).driver = s.driver := rfl
@[simp] theorem State.storeBytes_faults (s : State) (a : Nat) (bs : List Byte) : (s.storeBytes a bs).faults = s.faults := rfl
@[simp] theorem State.storeBytes_reg (s : State) (a : Nat) (bs : List Byte) (r : Nibble) : (s.storeBytes a bs).reg r = s.reg r := rfl
@[simp] theorem State.storeBytes_key (s : State) (a : Nat) (bs : List Byte) (k' : Nibble) : (s.storeBytes a bs).key k' = s.key k' := rfl
@[simp] theorem State.storeBytes_pixel (s : State) (a : Nat) (bs : List Byte) (px : Fin 64) (py : Fin 32) : (s.storeBytes a bs).pixel px py = s.pixel px py := rfl
/-! ### `State.setFlag` -/
@[simp] theorem State.setFlag_i (s : State) (c : Bool) : (s.setFlag c).i = s.i := rfl
@[simp] theorem State.setFlag_pc (s : State) (c : Bool) : (s.setFlag c).pc = s.pc := rfl
@[simp] theorem State.setFlag_sp (s : State) (c : Bool) : (s.setFlag c).sp = s.sp := rfl
@[simp] theorem State.setFlag_stack (s : State) (c : Bool) : (s.setFlag c).stack = s.stack := rfl
@[simp] theorem State.setFlag_dt (s : State) (c : Bool) : (s.setFlag c).dt = s.dt := rfl
@[simp] theorem State.setFlag_st (s : State) (c : Bool) : (s.setFlag c).st = s.st := rfl
@[simp] theorem State.setFlag_keys (s : State) (c : Bool) : (s.setFlag c).keys = s.keys := rfl
@[simp] theorem State.setFlag_fb (s : State) (c : Bool) : (s.setFlag c).fb = s.fb := rfl
@[simp] theorem State.setFlag_mem (s : State) (c : Bool) : (s.setFlag c).mem = s.mem := rfl
@[simp] theorem State.setFlag_ldstIncI (s : State) (c : Bool) : (s.setFlag c).ldstIncI = s.ldstIncI := rfl
@[simp] theorem State.setFlag_font (s : State) (c : Bool) : (s.setFlag c).font = s.font := rfl
@[simp] theorem State.setFlag_draws (s : State) (c : Bool) : (s.setFlag c).draws = s.draws := rfl
@[simp] theorem State.setFlag_schedule (s : State) (c : Bool) : (s.setFlag c).schedule = s.schedule := rfl
@[simp] theorem State.setFlag_driver (s : State) (c : Bool) : (s.setFlag c).driver = s.driver := rfl
@[simp] theorem State.setFlag_faults (s : State) (c : Bool) : (s.setFlag c).faults = s.faults := rfl
@[simp] theorem State.setFlag_key (s : State) (c : Bool) (k' : Nibble) : (s.setFlag c).key k' = s.key k' := rfl
@[simp] theorem State.setFlag_pixel (s : State) (c : Bool) (px : Fin 64) (py : Fin 32) : (s.setFlag c).pixel px py = s.pixel px py := rfl
@[simp] theorem State.setFlag_readMem (s : State) (c : Bool) (n : Nat) : (s.setFlag c).readMem n = s.readMem n := rfl
/-! ### `State.setRegFlag` -/
@[simp] theorem State.setRegFlag_i (s : State) (x : Nibble) (b : Byte) (c : Bool) : (s.setRegFlag x b c).i = s.i := rfl
@[simp] theorem State.setRegFlag_pc (s : State) (x : Nibble) (b : Byte) (c : Bool) : (s.setRegFlag x b c).pc = s.pc := rfl
@[simp] theorem State.setRegFlag_sp (s : State) (x : Nibble) (b : Byte) (c : Bool) : (s.setRegFlag x b c).sp = s.sp := rfl
@[simp] theorem State.setRegFlag_stack (s : State) (x : Nibble) (b : Byte) (c : Bool) : (s.setRegFlag x b c).stack = s.stack := rfl
@[simp] theorem State.setRegFlag_dt (s : State) (x : Nibble) (b : Byte) (c : Bool) : (s.setRegFlag x b c).dt = s.dt := rfl
@[simp] theorem State.setRegFlag_st (s : State) (x : Nibble) (b : Byte) (c : Bool) : (s.setRegFlag x b c).st = s.st := rfl
@[simp] theorem State.setRegFlag_keys (s : State) (x : Nibble) (b : Byte) (c : Bool) : (s.setRegFlag x b c).keys = s.keys := rfl
@[simp] theorem State.setRegFlag_fb (s : State) (x : Nibble) (b : Byte) (c : Bool) : (s.setRegFlag x b c).fb = s.fb := rfl
@[simp] theorem State.setRegFlag_mem (s : State) (x : Nibble) (b : Byte) (c : Bool) : (s.setRegFlag x b c).mem = s.mem := rfl
@[simp] theorem State.setRegFlag_ldstIncI (s : State) (x : Nibble) (b : Byte) (c : Bool) : (s.setRegFlag x b c).ldstIncI = s.ldstIncI := rfl
@[simp] theorem State.setRegFlag_font (s : State) (x : Nibble) (b : Byte) (c : Bool) : (s.setRegFlag x b c).font = s.font := rfl
@[simp] theorem State.setRegFlag_draws (s : State) (x : Nibble) (b : Byte) (c : Bool) : (s.setRegFlag x b c).draws = s.draws := rfl
@[simp] theorem State.setRegFlag_schedule (s : State) (x : Nibble) (b : Byte) (c : Bool) : (s.setRegFlag x b c).schedule = s.schedule := rfl
@[simp] theorem State.setRegFlag_driver (s : State) (x : Nibble) (b : Byte) (c : Bool) : (s.setRegFlag x b c).driver = s.driver := rfl
@[simp] theorem State.setRegFlag_faults (s : State) (x : Nibble) (b : Byte) (c : Bool) : (s.setRegFlag x b c).faults = s.faults := rfl
@[simp] theorem State.setRegFlag_key (s : State) (x : Nibble) (b : Byte) (c : Bool) (k' : Nibble) : (s.setRegFlag x b c).key k' = s.key k' := rfl
@[simp] theorem State.setRegFlag_pixel (s : State) (x : Nibble) (b : Byte) (c : Bool) (px : Fin 64) (py : Fin 32) : (s.setRegFlag x b c).pixel px py = s.pixel px py := rfl
@[simp] theorem State.setRegFlag_readMem (s : State) (x : Nibble) (b : Byte) (c : Bool) (n : Nat) : (s.setRegFlag x b c).readMem n = s.readMem n := rfl
/-! ### `State.loadRegs` -/
@[simp] theorem State.loadRegs_i (s : State) (x : Nibble) : (s.loadRegs x).i = s.i := rfl
@[simp] theorem State.loadRegs_pc (s : State) (x : Nibble) : (s.loadRegs x).pc = s.pc := rfl
@[simp] theorem State.loadRegs_sp (s : State) (x : Nibble) : (s.loadRegs x).sp = s.sp := rfl
@[simp] theorem State.loadRegs_stack (s : State) (x : Nibble) : (s.loadRegs x).stack = s.stack := rfl
@[simp] theorem State.loadRegs_dt (s : State) (x : Nibble) : (s.loadRegs x).dt = s.dt := rfl
@[simp] theorem State.loadRegs_st (s : State) (x : Nibble) : (s.loadRegs x).st = s.st := rfl
@[simp] theorem State.loadRegs_keys (s : State) (x : Nibble) : (s.loadRegs x).keys = s.keys := rfl
@[simp] theorem State.loadRegs_fb (s : State) (x : Nibble) : (s.loadRegs x).fb = s.fb := rfl
@[simp] theorem State.loadRegs_mem (s : State) (x : Nibble) : (s.loadRegs x).mem = s.mem := rfl
@[simp] theorem State.loadRegs_ldstIncI (s : State) (x : Nibble) : (s.loadRegs x).ldstIncI = s.ldstIncI := rfl
@[simp] theorem State.loadRegs_font (s : State) (x : Nibble) : (s.loadRegs x).font = s.font := rfl
@[simp] theorem State.loadRegs_draws (s : State) (x : Nibble) : (s.loadRegs x).draws = s.draws := rfl
@[simp] theorem State.loadRegs_schedule (s : State) (x : Nibble) : (s.loadRegs x).schedule = s.schedule := rfl
@[simp] theorem State.loadRegs_driver (s : State) (x : Nibble) : (s.loadRegs x).driver = s.driver := rfl
@[simp] theorem State.loadRegs_faults (s : State) (x : Nibble) : (s.loadRegs x).faults = s.faults := rfl
@[simp] theorem State.loadRegs_key (s : State) (x : Nibble) (k' : Nibble) : (s.loadRegs x).key k' = s.key k' := rfl
@[simp] theorem State.loadRegs_pixel (s : State) (x : Nibble) (px : Fin 64) (py : Fin 32) : (s.loadRegs x).pixel px py = s.pixel px py := rfl
@[simp] theorem State.loadRegs_readMem (s : State) (x : Nibble) (n : Nat) : (s.loadRegs x).readMem n = s.readMem n := rfl
/-! ### `State.bumpI` -/
@[simp] theorem State.bumpI_v (s : State) (x : Nibble) : (s.bumpI x).v = s.v := rfl
@[simp] theorem State.bumpI_i (s : State) (x : Nibble) : (s.bumpI x).i = if s.ldstIncI then s.i + zextNibble x + 1 else s.i := rfl
@[simp] theorem State.bumpI_pc (s : State) (x : Nibble) : (s.bumpI x).pc = s.pc := rfl
@[simp] theorem State.bumpI_sp (s : State) (x : Nibble) : (s.bumpI x).sp = s.sp := rfl
@[simp] theorem State.bumpI_stack (s : State) (x : Nibble) : (s.bumpI x).stack = s.stack := rfl
@[simp] theorem State.bumpI_dt (s : State) (x : Nibble) : (s.bumpI x).dt = s.dt := rfl
@[simp] theorem State.bumpI_st (s : State) (x : Nibble) : (s.bumpI x).st = s.st := rfl
@[simp] theorem State.bumpI_keys (s : State) (x : Nibble) : (s.bumpI x).keys = s.keys := rfl
@[simp] theorem State.bumpI_fb (s : State) (x : Nibble) : (s.bumpI x).fb = s.fb := rfl
@[simp] theorem State.bumpI_mem (s : State) (x : Nibble) : (s.bumpI x).mem = s.mem := rfl
@[simp] theorem State.bumpI_ldstIncI (s : State) (x : Nibble) : (s.bumpI x).ldstIncI = s.ldstIncI := rfl
@[simp] theorem State.bumpI_font (s : State) (x : Nibble) : (s.bumpI x).font = s.font := rfl
@[simp] theorem State.bumpI_draws (s : State) (x : Nibble) : (s.bumpI x).draws = s.draws := rfl
@[simp] theorem State.bumpI_schedule (s : State) (x : Nibble) : (s.bumpI x).schedule = s.schedule := rfl
@[simp] theorem State.bumpI_driver (s : State) (x : Nibble) : (s.bumpI x).driver = s.driver := rfl
@[simp] theorem State.bumpI_faults (s : State) (x : Nibble) : (s.bumpI x).faults = s.faults := rfl
@[simp] theorem State.bumpI_reg (s : State) (x : Nibble) (r : Nibble) : (s.bumpI x).reg r = s.reg r := rfl
@[simp] theorem State.bumpI_key (s : State) (x : Nibble) (k' : Nibble) : (s.bumpI x).key k' = s.key k' := rfl
@[simp] theorem State.bumpI_pixel (s : State) (x : Nibble) (px : Fin 64) (py : Fin 32) : (s.bumpI x).pixel px py = s.pixel px py := rfl
@[simp] theorem State.bumpI_readMem (s : State) (x : Nibble) (n : Nat) : (s.bumpI x).readMem n = s.readMem n := rfl
/-! ### `State.tick` -/
@[simp] theorem State.tick_v (s : State) : s.tick.v = s.v := rfl
@[simp] theorem State.tick_i (s : State) : s.tick.i = s.i := rfl
@[simp] theorem State.tick_pc (s : State) : s.tick.pc = s.pc := rfl
@[simp] theorem State.tick_sp (s : State) : s.tick.sp = s.sp := rfl
@[simp] theorem State.tick_stack (s : State) : s.tick.stack = s.stack := rfl
@[simp] theorem State.tick_dt (s : State) : s.tick.dt = tickDown s.dt := rfl
@[simp] theorem State.tick_st (s : State) : s.tick.st = tickDown s.st := rfl
@[simp] theorem State.tick_keys (s : State) : s.tick.keys = s.keys := rfl
@[simp] theorem State.tick_fb (s : State) : s.tick.fb = s.fb := rfl
@[simp] theorem State.tick_mem (s : State) : s.tick.mem = s.mem := rfl
@[simp] theorem State.tick_ldstIncI (s : State) : s.tick.ldstIncI = s.ldstIncI := rfl
@[simp] theorem State.tick_font (s : State) : s.tick.font = s.font := rfl
@[simp] theorem State.tick_draws (s : State) : s.tick.draws = s.draws := rfl
@[simp] theorem State.tick_schedule (s : State) : s.tick.schedule = s.schedule := rfl
@[simp] theorem State.tick_driver (s : State) : s.tick.driver = s.driver := rfl
@[simp] theorem State.tick_faults (s : State) : s.tick.faults = s.faults := rfl
@[simp] theorem State.tick_reg (s : State) (r : Nibble) : s.tick.reg r = s.reg r := rfl
@[simp] theorem State.tick_key (s : State) (k' : Nibble) : s.tick.key k' = s.key k' := rfl
@[simp] theorem State.tick_pixel (s : State) (px : Fin 64) (py : Fin 32) : s.tick.pixel px py = s.pixel px py := rfl
@[simp] theorem State.tick_readMem (s : State) (n : Nat) : s.tick.readMem n = s.readMem n := rfl
/-! ### `State.recordFault` -/
@[simp] theorem State.recordFault_v (s : State) (f : Fault) : (s.recordFault f).v = s.v := rfl
@[simp] theorem State.recordFault_i (s : State) (f : Fault) : (s.recordFault f).i = s.i := rfl
@[simp] theorem State.recordFault_pc (s : State) (f : Fault) : (s.recordFault f).pc = s.pc := rfl
@[simp] theorem State.recordFault_sp (s : State) (f : Fault) : (s.recordFault f).sp = s.sp := rfl
@[simp] theorem State.recordFault_stack (s : State) (f : Fault) : (s.recordFault f).stack = s.stack := rfl
@[simp] theorem State.recordFault_dt (s : State) (f : Fault) : (s.recordFault f).dt = s.dt := rfl
@[simp] theorem State.recordFault_st (s : State) (f : Fault) : (s.recordFault f).st = s.st := rfl
@[simp] theorem State.recordFault_keys (s : State) (f : Fault) : (s.recordFault f).keys = s.keys := rfl
@[simp] theorem State.recordFault_fb (s : State) (f : Fault) : (s.recordFault f).fb = s.fb := rfl
@[simp] theorem State.recordFault_mem (s : State) (f : Fault) : (s.recordFault f).mem = s.mem := rfl
@[simp] theorem State.recordFault_ldstIncI (s : State) (f : Fault) : (s.recordFault f).ldstIncI = s.ldstIncI := rfl
@[simp] theorem State.recordFault_font (s : State) (f : Fault) : (s.recordFault f).font = s.font := rfl
@[simp] theorem State.recordFault_draws (s : State) (f : Fault) : (s.recordFault f).draws = s.draws := rfl
@[simp] theorem State.recordFault_schedule (s : State) (f : Fault) : (s.recordFault f).schedule = s.schedule := rfl
@[simp] theorem State.recordFault_driver (s : State) (f : Fault) : (s.recordFault f).driver = s.driver := rfl
@[simp] theorem State.recordFault_faults (s : State) (f : Fault) : (s.recordFault f).faults = f :: s.faults := rfl
@[simp] theorem State.recordFault_reg (s : State) (f : Fault) (r : Nibble) : (s.recordFault f).reg r = s.reg r := rfl
@[simp] theorem State.recordFault_key (s : State) (f : Fault) (k' : Nibble) : (s.recordFault f).key k' = s.key k' := rfl
@[simp] theorem State.recordFault_pixel (s : State) (f : Fault) (px : Fin 64) (py : Fin 32) : (s.recordFault f).pixel px py = s.pixel px py := rfl
@[simp] theorem State.recordFault_readMem (s : State) (f : Fault) (n : Nat) : (s.recordFault f).readMem n = s.readMem n := rfl
/-! ### What the reads show of the writes -/

@[simp] theorem State.reg_setReg (s : State) (x r : Nibble) (b : Byte) :
    (s.setReg x b).reg r = if r = x then b else s.reg r := by
  by_cases h : r = x
  · subst h; simp [State.reg, State.setReg]
  · have : x.toNat ≠ r.toNat := fun e => h (BitVec.eq_of_toNat_eq e.symm)
    simp [State.reg, State.setReg, h, this]

@[simp] theorem State.reg_setFlag (s : State) (r : Nibble) (c : Bool) :
    (s.setFlag c).reg r = if r = flagReg then flagByte c else s.reg r := by
  simp [State.setFlag]

/-- R130: the result is written first and the flag last. -/
@[simp] theorem State.reg_setRegFlag (s : State) (x r : Nibble) (b : Byte) (c : Bool) :
    (s.setRegFlag x b c).reg r = if r = flagReg then flagByte c else if r = x then b else s.reg r := by
  simp [State.setRegFlag]

@[simp] theorem State.reg_loadRegs (s : State) (x r : Nibble) :
    (s.loadRegs x).reg r = if r.toNat ≤ x.toNat then s.readMem (s.i.toNat + r.toNat) else s.reg r := by
  simp [State.reg, State.loadRegs]

@[simp] theorem State.key_setKey (s : State) (k k' : Nibble) (b : Bool) :
    (s.setKey k b).key k' = if k' = k then b else s.key k' := by
  by_cases h : k' = k
  · subst h; simp [State.key, State.setKey]
  · have : k.toNat ≠ k'.toNat := fun e => h (BitVec.eq_of_toNat_eq e.symm)
    simp [State.key, State.setKey, h, this]

@[simp] theorem State.pixel_setFb (s : State) (g : Pixels) (px : Fin 64) (py : Fin 32) :
    (s.setFb g).pixel px py = Pixels.get g px py := rfl

@[simp] theorem Pixels.get_dark (px : Fin 64) (py : Fin 32) : Pixels.get Pixels.dark px py = false := by
  simp [Pixels.get, Pixels.dark]

/-- A taken or untaken skip writes `pc` alone. -/
theorem State.skipIf_eq (s : State) (c : Bool) : s.skipIf c = s.jump (if c then s.pc + 4 else s.pc + 2) := by
  cases c <;> rfl

end Sys2Proof.Machine
end

