-- ==== Sys2Proof/Laws/Memory.lean ====
section
/-!
SUPPORT. Memory: a read after a write (spec/20_memory.md R61), and that every memory operation keeps the canonical form.
-/

namespace Sys2Proof.Machine

open Sys2Proof

/-! ### Reads after writes, in any memory -/

theorem Memory.lookup_put (m : Memory) (a n : Nat) (b : Byte) :
    Memory.lookup (Memory.put m a b) n = if n = a then some b else Memory.lookup m n := by
  induction m with
  | nil => simp [Memory.put, Memory.lookup]
  | cons c m ih =>
    obtain ⟨d, w⟩ := c
    simp only [Memory.put]
    split
    · simp [Memory.lookup]
    · split
      · next h => subst h; simp only [Memory.lookup]; split <;> rfl
      · next h =>
        simp only [Memory.lookup, ih]
        by_cases hn : n = a
        · subst hn; simp [h]
        · simp [hn]

theorem Memory.lookup_drop (m : Memory) (a n : Nat) :
    Memory.lookup (Memory.drop m a) n = if n = a then none else Memory.lookup m n := by
  induction m with
  | nil => simp [Memory.drop, Memory.lookup]
  | cons c m ih =>
    obtain ⟨d, w⟩ := c
    simp only [Memory.drop] at ih
    by_cases hd : d = a
    · subst hd
      simp only [Memory.drop, List.filter_cons, bne_self_eq_false, Bool.false_eq_true, if_false, ih, Memory.lookup]
      split <;> simp_all
    · have : ((d, w).1 != a) = true := by simpa using hd
      simp only [Memory.drop, List.filter_cons, this, if_true, Memory.lookup, ih]
      by_cases hn : n = d
      · subst hn; simp [hd]
      · simp [hn]

/-- R61: a byte reads as the latest write to it, every other byte as before. -/
theorem Memory.read_write (font : Vector Byte Config.fontSize) (m : Memory) (a n : Nat) (b : Byte) :
    Memory.read font (Memory.write font m a b) n = if n = a then b else Memory.read font m n := by
  unfold Memory.read Memory.write
  split
  · next h => rw [Memory.lookup_drop]; by_cases hn : n = a <;> simp [hn, h]
  · rw [Memory.lookup_put]; by_cases hn : n = a <;> simp [hn]

@[simp] theorem State.readMem_writeMem (s : State) (a n : Nat) (b : Byte) :
    (s.writeMem a b).readMem n = if n = a then b else s.readMem n :=
  Memory.read_write s.font s.mem a n b

@[simp] theorem State.storeBytes_nil (s : State) (a : Nat) : s.storeBytes a [] = s := rfl

theorem State.storeBytes_cons (s : State) (a : Nat) (b : Byte) (bs : List Byte) :
    s.storeBytes a (b :: bs) = (s.writeMem a b).storeBytes (a + 1) bs := rfl

/-- A run of stored bytes: inside it the byte stored, outside it what was there. -/
theorem State.readMem_storeBytes (bs : List Byte) : ∀ (s : State) (a n : Nat),
    (s.storeBytes a bs).readMem n = if h : a ≤ n ∧ n < a + bs.length then bs[n - a]'(by omega) else s.readMem n := by
  induction bs with
  | nil =>
    intro s a n
    rw [dif_neg (by simp only [List.length_nil]; omega)]
    rfl
  | cons b bs ih =>
    intro s a n
    simp only [State.storeBytes_cons, ih, State.readMem_writeMem, List.length_cons]
    by_cases hn : n = a
    · subst hn; simp
    · by_cases hin : a ≤ n ∧ n < a + (bs.length + 1)
      · have h1 : a + 1 ≤ n ∧ n < a + 1 + bs.length := by omega
        obtain ⟨k, rfl⟩ : ∃ k, n = a + 1 + k := ⟨n - (a + 1), by omega⟩
        have e : a + 1 + k - a = k + 1 := by omega
        rw [dif_pos h1, dif_pos hin]
        simp only [e, List.getElem_cons_succ]
        congr 1; omega
      · have h1 : ¬(a + 1 ≤ n ∧ n < a + 1 + bs.length) := by omega
        rw [dif_neg h1, dif_neg hin, if_neg hn]

/-! ### The canonical form is kept -/

theorem Memory.wfFrom_mono (font : Vector Byte Config.fontSize) {lo lo' : Nat} (h : lo' ≤ lo) :
    ∀ {m : Memory}, Memory.wfFrom font lo m = true → Memory.wfFrom font lo' m = true
  | [], _ => rfl
  | (a, v) :: m, hm => by
    simp only [Memory.wfFrom, Bool.and_eq_true, decide_eq_true_eq] at hm ⊢
    exact ⟨⟨⟨by omega, hm.1.1.2⟩, hm.1.2⟩, hm.2⟩

theorem Memory.put_wfFrom (font : Vector Byte Config.fontSize) (a : Nat) (b : Byte) (ha : a < Config.memSize)
    (hb : b ≠ Memory.unlisted font a) :
    ∀ (m : Memory) (lo : Nat), lo ≤ a → Memory.wfFrom font lo m = true → Memory.wfFrom font lo (Memory.put m a b) = true
  | [], lo, hlo, _ => by simp [Memory.put, Memory.wfFrom, hlo, ha, hb]
  | (d, w) :: m, lo, hlo, hm => by
    simp only [Memory.wfFrom, Bool.and_eq_true, decide_eq_true_eq] at hm
    obtain ⟨⟨⟨h1, h2⟩, h3⟩, h4⟩ := hm
    simp only [Memory.put]
    split
    · next hlt => simp [Memory.wfFrom, hlo, ha, hb, h2, h3, h4, Nat.succ_le_of_lt hlt]
    · split
      · next e => subst e; simp [Memory.wfFrom, hlo, ha, hb, h4]
      · next hge hne =>
        simp only [Memory.wfFrom, Bool.and_eq_true, decide_eq_true_eq]
        exact ⟨⟨⟨h1, h2⟩, h3⟩, Memory.put_wfFrom font a b ha hb m (d + 1) (by omega) h4⟩

theorem Memory.drop_wfFrom (font : Vector Byte Config.fontSize) (a : Nat) :
    ∀ (m : Memory) (lo : Nat), Memory.wfFrom font lo m = true → Memory.wfFrom font lo (Memory.drop m a) = true
  | [], _, _ => rfl
  | (d, w) :: m, lo, hm => by
    simp only [Memory.wfFrom, Bool.and_eq_true, decide_eq_true_eq] at hm
    obtain ⟨⟨⟨h1, h2⟩, h3⟩, h4⟩ := hm
    have ih := Memory.drop_wfFrom font a m (d + 1) h4
    simp only [Memory.drop, List.filter_cons] at ih ⊢
    split
    · simp only [Memory.wfFrom, Bool.and_eq_true, decide_eq_true_eq]
      exact ⟨⟨⟨h1, h2⟩, h3⟩, ih⟩
    · exact Memory.wfFrom_mono font (by omega) ih

/-- A write inside memory keeps the canonical form. -/
theorem Memory.write_wf (font : Vector Byte Config.fontSize) (m : Memory) (a : Nat) (b : Byte) (ha : a < Config.memSize)
    (hm : Memory.wf font m = true) : Memory.wf font (Memory.write font m a b) = true := by
  unfold Memory.write
  split
  · exact Memory.drop_wfFrom font a m 0 hm
  · next h => exact Memory.put_wfFrom font a b ha h m 0 (Nat.zero_le _) hm

/-- A run of stores inside memory keeps the canonical form. -/
theorem State.storeBytes_wf (bs : List Byte) : ∀ (s : State) (a : Nat), a + bs.length ≤ Config.memSize →
    Memory.wf s.font s.mem = true → Memory.wf s.font (s.storeBytes a bs).mem = true := by
  induction bs with
  | nil => intro s a _ h; exact h
  | cons b bs ih =>
    intro s a ha h
    simp only [List.length_cons] at ha
    exact ih (s.writeMem a b) (a + 1) (by omega) (Memory.write_wf s.font s.mem a b (by omega) h)

/-! ### Equal readings are equal memories -/

theorem Memory.lookup_of_wfFrom_lt (font : Vector Byte Config.fontSize) :
    ∀ {m : Memory} {lo n : Nat}, Memory.wfFrom font lo m = true → n < lo → Memory.lookup m n = none
  | [], _, _, _, _ => rfl
  | (a, v) :: m, lo, n, hm, hn => by
    simp only [Memory.wfFrom, Bool.and_eq_true, decide_eq_true_eq] at hm
    obtain ⟨⟨⟨h1, _⟩, _⟩, h4⟩ := hm
    simp only [Memory.lookup]
    rw [if_neg (by omega)]
    exact Memory.lookup_of_wfFrom_lt font h4 (by omega)

theorem Memory.read_head (font : Vector Byte Config.fontSize) (a : Nat) (v : Byte) (m : Memory) :
    Memory.read font ((a, v) :: m) a = v := by simp [Memory.read, Memory.lookup]

/-- Two memories in canonical form that read the same at every address are the same list. -/
theorem Memory.ext_of_wfFrom (font : Vector Byte Config.fontSize) :
    ∀ {m m' : Memory} {lo : Nat}, Memory.wfFrom font lo m = true → Memory.wfFrom font lo m' = true →
      (∀ n, Memory.read font m n = Memory.read font m' n) → m = m'
  | [], [], _, _, _, _ => rfl
  | [], (a, v) :: m', _, _, hm', h => by
    have := h a
    simp only [Memory.wfFrom, Bool.and_eq_true, bne_iff_ne] at hm'
    rw [Memory.read_head] at this
    exact absurd this.symm hm'.1.2
  | (a, v) :: m, [], _, hm, _, h => by
    have := h a
    simp only [Memory.wfFrom, Bool.and_eq_true, bne_iff_ne] at hm
    rw [Memory.read_head] at this
    exact absurd this hm.1.2
  | (a, v) :: m, (a', v') :: m', lo, hm, hm', h => by
    simp only [Memory.wfFrom, Bool.and_eq_true, decide_eq_true_eq, bne_iff_ne] at hm hm'
    obtain ⟨⟨⟨_, _⟩, hv⟩, hm⟩ := hm
    obtain ⟨⟨⟨_, _⟩, hv'⟩, hm'⟩ := hm'
    have key : ∀ {b : Nat} {w : Byte} {k : Memory} {n : Nat}, Memory.wfFrom font (b + 1) k = true → n < b →
        Memory.read font ((b, w) :: k) n = Memory.unlisted font n := by
      intro b w k n hk hn
      simp only [Memory.read, Memory.lookup]
      rw [if_neg (by omega), Memory.lookup_of_wfFrom_lt font hk (by omega)]; rfl
    rcases Nat.lt_trichotomy a a' with hlt | heq | hgt
    · have := h a; rw [Memory.read_head, key hm' hlt] at this; exact absurd this hv
    · subst heq
      have e : v = v' := by have := h a; rwa [Memory.read_head, Memory.read_head] at this
      subst e
      congr 1
      refine Memory.ext_of_wfFrom font hm hm' fun n => ?_
      by_cases hn : n = a
      · subst hn
        simp only [Memory.read, Memory.lookup_of_wfFrom_lt font hm (Nat.lt_succ_self _),
          Memory.lookup_of_wfFrom_lt font hm' (Nat.lt_succ_self _)]
      · have := h n
        simpa only [Memory.read, Memory.lookup, if_neg hn] using this
    · have := h a'; rw [Memory.read_head, key hm hgt] at this; exact absurd this.symm hv'

end Sys2Proof.Machine
end

