-- ==== Sys2Proof/Laws/Draw.lean ====
section
/-!
SUPPORT. The draw engine: what a sprite does to every pixel and when it collides (spec/45_draw.md R146). The eight columns
of a row and the at most 15 rows of a sprite are distinct after the wrap, so no two bits of one sprite meet.
-/

namespace Sys2Proof.Machine

open Sys2Proof

theorem Pixels.get_flip (fb : Pixels) (x px : Fin 64) (y py : Fin 32) :
    Pixels.get (Pixels.flip fb x y) px py = (Pixels.get fb px py ^^ decide (px = x ∧ py = y)) := by
  unfold Pixels.get Pixels.flip
  by_cases hx : px = x
  · subst hx
    by_cases hy : py = y
    · subst hy; simp
    · have : y.val ≠ py.val := fun e => hy (Fin.ext e.symm)
      simp [hy, this]
  · have : x.val ≠ px.val := fun e => hx (Fin.ext e.symm)
    simp [hx, this]

/-- Toggle the target `p`, recording whether it was lit. -/
def toggle (c : Pixels × Bool) (p : Fin 64 × Fin 32) : Pixels × Bool :=
  (Pixels.flip c.1 p.1 p.2, c.2 || Pixels.get c.1 p.1 p.2)

/-- Toggling distinct targets: each is toggled once, and there is a collision if one of them was lit before. -/
theorem foldl_toggle (L : List (Fin 64 × Fin 32)) : ∀ (c : Pixels × Bool), L.Nodup →
    (∀ px py, Pixels.get (L.foldl toggle c).1 px py = (Pixels.get c.1 px py ^^ decide ((px, py) ∈ L))) ∧
    ((L.foldl toggle c).2 = true ↔ c.2 = true ∨ ∃ p ∈ L, Pixels.get c.1 p.1 p.2 = true) := by
  induction L with
  | nil => intro c _; simp
  | cons q L ih =>
    intro c hL
    obtain ⟨hq, hL⟩ := List.nodup_cons.1 hL
    obtain ⟨ih1, ih2⟩ := ih (toggle c q) hL
    simp only [List.foldl_cons]
    refine ⟨fun px py => ?_, ?_⟩
    · rw [ih1, toggle, Pixels.get_flip]
      by_cases e : (px, py) = q
      · subst e; simp [hq]
      · have e' : ¬(px = q.1 ∧ py = q.2) := fun h => e (Prod.ext h.1 h.2)
        simp [e, e']
    · rw [ih2]
      simp only [toggle, Bool.or_eq_true, List.mem_cons, exists_eq_or_imp]
      have agree : (∃ p ∈ L, Pixels.get (Pixels.flip c.1 q.1 q.2) p.1 p.2 = true) ↔
          ∃ p ∈ L, Pixels.get c.1 p.1 p.2 = true := by
        refine exists_congr fun p => and_congr_right fun hp => ?_
        have : ¬(p.1 = q.1 ∧ p.2 = q.2) := fun h => hq (Prod.ext h.1 h.2 ▸ hp)
        rw [Pixels.get_flip]; simp [this]
      rw [agree, or_assoc]

/-- The targets of one sprite byte. -/
def rowTargets (vx vy : Byte) (row : Nat) (b : Byte) : List (Fin 64 × Fin 32) :=
  ((List.range 8).filter (spriteBit b)).map fun col => (drawX vx col, drawY vy row)

theorem drawRow_eq_foldl (vx vy : Byte) (row : Nat) (b : Byte) (c : Pixels × Bool) :
    drawRow vx vy row b c = (rowTargets vx vy row b).foldl toggle c := by
  rw [rowTargets, List.foldl_map, List.foldl_filter]
  rfl

/-- The targets of a sprite of `n` bytes at I. -/
def State.spriteTargets (s : State) (vx vy : Byte) (n : Nat) : List (Fin 64 × Fin 32) :=
  (List.range n).flatMap fun row => rowTargets vx vy row (s.readMem (s.i.toNat + row))

theorem drawSprite_eq_foldl (s : State) (vx vy : Byte) (n : Nat) :
    s.drawSprite vx vy n = (s.spriteTargets vx vy n).foldl toggle (s.fb, false) := by
  rw [State.spriteTargets, List.foldl_flatMap]
  simp only [State.drawSprite, drawRow_eq_foldl]

theorem mem_spriteTargets (s : State) (vx vy : Byte) (n : Nat) (px : Fin 64) (py : Fin 32) :
    (px, py) ∈ s.spriteTargets vx vy n ↔ SpriteHits s vx vy n px py := by
  simp only [State.spriteTargets, rowTargets, List.mem_flatMap, List.mem_map, List.mem_filter, List.mem_range,
    SpriteHits, spriteBit, drawX, drawY, Prod.mk.injEq, Fin.ext_iff, Fin.val_ofNat]
  constructor
  · rintro ⟨row, hr, col, ⟨hc, hb⟩, hx, hy⟩
    exact ⟨row, col, hr, hc, hb, hx.symm, hy.symm⟩
  · rintro ⟨row, col, hr, hc, hb, hx, hy⟩
    exact ⟨row, hr, col, ⟨hc, hb⟩, hx.symm, hy.symm⟩

theorem drawX_inj {vx : Byte} {c c' : Nat} (hc : c < 8) (hc' : c' < 8) (h : drawX vx c = drawX vx c') : c = c' := by
  simp only [drawX, Fin.ext_iff, Fin.val_ofNat] at h
  omega

theorem drawY_inj {vy : Byte} {r r' : Nat} (hr : r < 16) (hr' : r' < 16) (h : drawY vy r = drawY vy r') : r = r' := by
  simp only [drawY, Fin.ext_iff, Fin.val_ofNat] at h
  omega

theorem spriteTargets_nodup (s : State) (vx vy : Byte) (n : Nat) (hn : n ≤ 16) : (s.spriteTargets vx vy n).Nodup := by
  refine List.nodup_flatMap.2 ⟨fun row _ => ?_, ?_⟩
  · refine List.Nodup.map_on ?_ (List.nodup_range.filter _)
    intro a ha b hb h
    simp only [List.mem_filter, List.mem_range] at ha hb
    exact drawX_inj ha.1 hb.1 (congrArg Prod.fst h)
  · refine List.Pairwise.imp_of_mem ?_ List.nodup_range
    intro r r' hr hr' hne p hp hp'
    simp only [rowTargets, List.mem_map, List.mem_range] at hp hp' hr hr'
    obtain ⟨_, _, rfl⟩ := hp
    obtain ⟨_, _, h⟩ := hp'
    exact hne (drawY_inj (by omega) (by omega) (congrArg Prod.snd h).symm)

/-- R146: a sprite of at most 16 bytes toggles exactly the pixels its set bits target, and collides exactly when one of
them was lit. -/
theorem drawSprite_spec (s : State) (vx vy : Byte) (n : Nat) (hn : n ≤ 16) :
    (∀ px py, Pixels.get (s.drawSprite vx vy n).1 px py = true ↔
      (s.pixel px py = true ↔ ¬SpriteHits s vx vy n px py)) ∧
    ((s.drawSprite vx vy n).2 = true ↔ ∃ px py, SpriteHits s vx vy n px py ∧ s.pixel px py = true) := by
  obtain ⟨h1, h2⟩ := foldl_toggle (s.spriteTargets vx vy n) (s.fb, false) (spriteTargets_nodup s vx vy n hn)
  rw [← drawSprite_eq_foldl] at h1 h2
  refine ⟨fun px py => ?_, ?_⟩
  · rw [h1, ← mem_spriteTargets]
    change (s.pixel px py ^^ _) = true ↔ _
    cases s.pixel px py <;> simp
  · rw [h2]
    constructor
    · rintro (h | ⟨p, hp, hl⟩)
      · cases h
      · exact ⟨p.1, p.2, (mem_spriteTargets ..).1 hp, hl⟩
    · rintro ⟨px, py, hp, hl⟩
      exact .inr ⟨(px, py), (mem_spriteTargets ..).2 hp, hl⟩

end Sys2Proof.Machine
end

