-- ==== Sys2Proof/Laws/Ops.lean ====
section
/-!
SUPPORT. One lemma per shared operation: everything it can answer, for callers to cite instead of unfolding it.
-/

namespace Sys2Proof.Machine

open Sys2Proof

/-! ### Range checks and faults (spec/20_memory.md R57) -/

theorem State.inRange_iff (s : State) (len : Nat) :
    s.inRange len = true ↔ len = 0 ∨ s.i.toNat + len - 1 ≤ 0xFFF := by simp [State.inRange]

/-- A checked access ends in its state in range, and in `MemRange` with nothing done outside it. -/
theorem State.checked_cases (s : State) (len : Nat) (t : State) :
    (s.inRange len = true ∧ s.checked len t = .next t) ∨
    (s.inRange len = false ∧ s.checked len t = .fault (.memRange (lowestOut s.i))) := by
  unfold State.checked raise
  cases s.inRange len <;> simp

theorem lowestOut_toNat (a : Word) : (lowestOut a).toNat = max a.toNat 0x1000 := by
  unfold lowestOut
  split
  · next h => rw [Nat.max_eq_right (Nat.le_of_lt h)]; rfl
  · next h => rw [Nat.max_eq_left (Nat.le_of_not_lt h)]

/-! ### Operand forms -/

theorem zextAddr_toNat (nnn : Addr) : (zextAddr nnn).toNat = nnn.toNat := by
  simp only [zextAddr, BitVec.toNat_setWidth]; omega

theorem zextByte_toNat (b : Byte) : (zextByte b).toNat = b.toNat := by
  simp only [zextByte, BitVec.toNat_setWidth]; omega

theorem zextNibble_toNat (x : Nibble) : (zextNibble x).toNat = x.toNat := by
  simp only [zextNibble, BitVec.toNat_setWidth]; omega

/-- The bytes Fx55 stores: register `k` at place `k`, for k from 0 to x (spec/47_index_memory.md R168). -/
theorem State.regsUpTo_length (s : State) (x : Nibble) : (s.regsUpTo x).length = x.toNat + 1 := by
  have := x.isLt
  simp only [State.regsUpTo, List.length_take, Vector.length_toList]; omega

theorem State.regsUpTo_getElem (s : State) (x r : Nibble) (h : r.toNat < (s.regsUpTo x).length) :
    (s.regsUpTo x)[r.toNat] = s.reg r := by
  simp [State.regsUpTo, State.reg]

/-! ### Keys (spec/46_timers_keys.md R156, spec/42_skips.md R116) -/

/-- The key found is pressed and every lower one is not. -/
theorem State.firstKey_some {s : State} {k : Nibble} (h : s.firstKey = some k) :
    s.key k = true ∧ ∀ j : Nibble, j.toNat < k.toNat → s.key j = false := by
  unfold State.firstKey at h
  obtain ⟨hk, as, bs, hL, hn⟩ := List.find?_eq_some_iff_append.1 h
  refine ⟨hk, fun j hj => ?_⟩
  have hlen : as.length = k.toNat := by
    have h1 : ((List.range 16).map (BitVec.ofNat 4))[as.length]? = some k := by simp [hL]
    have hlt : as.length < 16 := by
      have := congrArg List.length hL
      simp at this; omega
    rw [List.getElem?_map, List.getElem?_range hlt] at h1
    simp only [Option.map_some, Option.some.injEq] at h1
    rw [← h1]; simp only [BitVec.toNat_ofNat]; omega
  have hmem : j ∈ as := by
    have h1 : ((List.range 16).map (BitVec.ofNat 4))[j.toNat]? = some j := by
      rw [List.getElem?_map, List.getElem?_range j.isLt]; simp
    rw [hL, List.getElem?_append_left (by omega)] at h1
    exact List.mem_of_getElem? h1
  simpa using hn j hmem

/-- No key found: none is pressed. -/
theorem State.firstKey_none {s : State} : s.firstKey = none ↔ ∀ j : Nibble, s.key j = false := by
  unfold State.firstKey
  rw [List.find?_eq_none]
  constructor
  · intro h j
    have : j ∈ (List.range 16).map (BitVec.ofNat 4) :=
      List.mem_map.2 ⟨j.toNat, List.mem_range.2 j.isLt, by simp⟩
    simpa using h j this
  · intro h j _
    simp [h j]

/-- The one form of a key skip: on the key Vx names, or `KeyIndex` where it names none. -/
theorem skipOnKey_cases (x : Nibble) (wanted : Bool) (s : State) :
    ((s.reg x).toNat ≤ 15 ∧ skipOnKey x wanted s = .next (s.skipIf (s.key ((s.reg x).setWidth 4) == wanted))) ∨
    (15 < (s.reg x).toNat ∧ skipOnKey x wanted s = .fault (.keyIndex (zextByte (s.reg x)))) := by
  unfold skipOnKey keyIndex raise
  by_cases h : (s.reg x).toNat ≤ 15
  · exact .inl ⟨h, by simp [h]⟩
  · exact .inr ⟨by omega, by simp [h]⟩

/-! ### Fetch (spec/40_step_and_pc.md R91) -/

/-- The word at PC, or `FetchRange`. -/
theorem State.fetch_cases (s : State) :
    (s.pc.toNat ≤ 0x0FFE ∧ s.fetch = .ok (wordOfBytes (s.readMem s.pc.toNat) (s.readMem (s.pc.toNat + 1)))) ∨
    (0x0FFE < s.pc.toNat ∧ s.fetch = .error (.fetchRange (lowestOut s.pc))) := by
  unfold State.fetch
  by_cases h : 0x0FFE < s.pc.toNat
  · exact .inr ⟨h, by simp [h]⟩
  · exact .inl ⟨by omega, by simp [h]⟩

theorem State.fetchBase_le (s : State) : s.fetchBase.toNat ≤ 0x0FFE := by
  unfold State.fetchBase
  split
  · decide
  · omega

/-- A placed word is the word the next fetch reads. -/
theorem State.fetch_placeWord (s : State) (op : Word) : (s.placeWord op).fetch = .ok op := by
  have h := s.fetchBase_le
  rcases (s.placeWord op).fetch_cases with ⟨_, e⟩ | ⟨h', _⟩
  · rw [e]
    have hm : ∀ n, (s.placeWord op).readMem n =
        (s.storeBytes s.fetchBase.toNat [highByte op, lowByte op]).readMem n := fun _ => rfl
    have hp : (s.placeWord op).pc = s.fetchBase := rfl
    simp only [hm, hp, State.readMem_storeBytes]
    simp
  · exact absurd h' (Nat.not_lt.2 h)

/-! ### Events (spec/00_scope.md R12, spec/60_exceptions.md R186) -/

/-- How a `Step` ends: as the core answers, except that a reported fault is recorded and the run goes on. -/
theorem State.conclude_cases (s : State) (r : StepResult) :
    (∃ t, r = .next t ∧ s.conclude r = .next t) ∨
    (∃ f, r = .fault f ∧ f.isReported = true ∧ s.conclude r = .next (s.recordFault f)) ∨
    (∃ f, r = .fault f ∧ f.isReported = false ∧ s.conclude r = .fault f) ∨
    (∃ e, r = .refused e ∧ s.conclude r = .refused e) := by
  cases r with
  | next t => exact .inl ⟨t, rfl, rfl⟩
  | fault f =>
    cases h : f.isReported
    · exact .inr (.inr (.inl ⟨f, rfl, h, by simp [State.conclude, h]⟩))
    · exact .inr (.inl ⟨f, rfl, h, by simp [State.conclude, h]⟩)
  | refused e => exact .inr (.inr (.inr ⟨e, rfl, rfl⟩))

@[simp] theorem State.conclude_next (s t : State) : s.conclude (.next t) = .next t := rfl

/-- A step is one event, whole: which one, and in which state. -/
theorem step_cases (s : State) :
    (∃ e later, s.schedule = e :: later ∧ step s = handle e { s with schedule := later }) ∨
    (s.schedule = [] ∧ s.driver = .steady ∧ step s = handle .step s) ∨
    (∃ n, s.schedule = [] ∧ s.driver = .free n ∧
      step s = handle (Config.driver n) { s with driver := .free (n + 1) }) := by
  unfold step State.nextEvent
  cases hs : s.schedule with
  | cons e later => exact .inl ⟨e, later, rfl, rfl⟩
  | nil =>
    cases hd : s.driver with
    | steady => exact .inr (.inl ⟨rfl, rfl, rfl⟩)
    | free n => exact .inr (.inr ⟨n, rfl, rfl, rfl⟩)

/-- With the word placed, the next step runs it. -/
theorem step_placeWord (s : State) (op : Word) :
    step (s.placeWord op) = (s.placeWord op).conclude (exec (decodeWord op) (s.placeWord op)) := by
  have : step (s.placeWord op) = (s.placeWord op).conclude (s.placeWord op).coreStep := rfl
  rw [this, State.coreStep, State.fetch_placeWord]

end Sys2Proof.Machine
end

