-- ==== Sys2Proof/Laws/Outside.lean ====
section
/-!
SUPPORT. Nothing of the core reads the model's own `schedule`, `driver` and `faults`: an instruction, a `Step` of the core and
an event do the same whatever they hold.
-/

namespace Sys2Proof.Machine

open Sys2Proof

theorem State.checked_outside (s t : State) (len : Nat) (a : List Event) (b : Driver) (c : List Fault) :
    (s.outside a b c).checked len (t.outside a b c) = mapNext (fun u => u.outside a b c) (s.checked len t) := by
  have h : (s.outside a b c).inRange len = s.inRange len := rfl
  unfold State.checked
  rw [h]
  split <;> rfl

theorem skipOnKey_outside (x : Nibble) (wanted : Bool) (s : State) (a : List Event) (b : Driver) (c : List Fault) :
    skipOnKey x wanted (s.outside a b c) = mapNext (fun u => u.outside a b c) (skipOnKey x wanted s) := by
  have h : (s.outside a b c).reg x = s.reg x := rfl
  simp only [skipOnKey, h, State.skipIf_eq]
  split <;> rfl

/-- An instruction neither reads nor writes what is outside the core. -/
theorem exec_outside (i : Instr) (s : State) (a : List Event) (b : Driver) (c : List Fault) :
    exec i (s.outside a b c) = mapNext (fun u => u.outside a b c) (exec i s) := by
  cases i with
  | ret z =>
    have h : (s.outside a b c).sp = s.sp := rfl
    simp only [exec, execRet, h]
    split
    · rfl
    · split <;> rfl
  | call nnn =>
    have h : (s.outside a b c).sp = s.sp := rfl
    simp only [exec, execCall, h]
    split
    · rfl
    · split <;> rfl
  | drw x y n =>
    let r := s.drawSprite (s.reg x) (s.reg y) n.toNat
    exact s.checked_outside ((s.setFb r.1).setFlag r.2).advance n.toNat a b c
  | ldB x => exact s.checked_outside (s.storeBytes s.i.toNat (bcdDigits (s.reg x))).advance 3 a b c
  | ldMemVx x =>
    exact s.checked_outside ((s.storeBytes s.i.toNat (s.regsUpTo x)).bumpI x).advance (x.toNat + 1) a b c
  | ldVxMem x => exact s.checked_outside ((s.loadRegs x).bumpI x).advance (x.toNat + 1) a b c
  | skp x => exact skipOnKey_outside x true s a b c
  | sknp x => exact skipOnKey_outside x false s a b c
  | ldVxK x =>
    have h : (s.outside a b c).firstKey = s.firstKey := rfl
    simp only [exec, execLdVxK, h]
    split <;> rfl
  | seImm x kk => simp only [exec, execSeImm, State.skipIf_eq]; rfl
  | sneImm x kk => simp only [exec, execSneImm, State.skipIf_eq]; rfl
  | seReg x y z => simp only [exec, execSeReg, State.skipIf_eq]; rfl
  | sneReg x y z => simp only [exec, execSneReg, State.skipIf_eq]; rfl
  | _ => rfl

theorem State.coreStep_outside (s : State) (a : List Event) (b : Driver) (c : List Fault) :
    (s.outside a b c).coreStep = mapNext (fun u => u.outside a b c) s.coreStep := by
  have h : (s.outside a b c).fetch = s.fetch := rfl
  unfold State.coreStep
  rw [h]
  cases s.fetch with
  | ok op => exact exec_outside _ s a b c
  | error f => rfl

/-- A `Step` of the core leaves the record of faults: only the end of the event writes it. -/
theorem State.coreStep_faults {s t : State} (h : s.coreStep = .next t) : t.faults = s.faults := by
  have e := s.coreStep_outside s.schedule s.driver s.faults
  rw [show s.outside s.schedule s.driver s.faults = s from rfl, h] at e
  simp only [mapNext, Host.Outcome.next.injEq] at e
  rw [e]; rfl

end Sys2Proof.Machine
end

