-- ==== Sys2Proof/Laws/PerInstr.lean ====
section
/-!
SUPPORT. One fact per instruction as syntax: its word has the fixed bits its row of spec/opcode_table.json gives it
(spec/30_encoding.md R74, the columns match and mask).
-/

namespace Sys2Proof.Laws.FixedBits

open Sys2Proof

/-- The match and the mask of an instruction's row (R74); the catch-all row has the mask 0. -/
def row : Instr → Word × Word
  | .cls _ => (0x00E0, 0xF0FF)
  | .ret _ => (0x00EE, 0xF0FF)
  | .jp _ => (0x1000, 0xF000)
  | .call _ => (0x2000, 0xF000)
  | .seImm _ _ => (0x3000, 0xF000)
  | .sneImm _ _ => (0x4000, 0xF000)
  | .seReg _ _ _ => (0x5000, 0xF000)
  | .ldImm _ _ => (0x6000, 0xF000)
  | .addImm _ _ => (0x7000, 0xF000)
  | .ldReg _ _ => (0x8000, 0xF00F)
  | .or _ _ => (0x8001, 0xF00F)
  | .and _ _ => (0x8002, 0xF00F)
  | .xor _ _ => (0x8003, 0xF00F)
  | .addReg _ _ => (0x8004, 0xF00F)
  | .sub _ _ => (0x8005, 0xF00F)
  | .shr _ _ => (0x8006, 0xF00F)
  | .subn _ _ => (0x8007, 0xF00F)
  | .shl _ _ => (0x800E, 0xF00F)
  | .sneReg _ _ _ => (0x9000, 0xF000)
  | .ldI _ => (0xA000, 0xF000)
  | .jpV0 _ => (0xB000, 0xF000)
  | .rnd _ _ => (0xC000, 0xF000)
  | .drw _ _ _ => (0xD000, 0xF000)
  | .skp _ => (0xE09E, 0xF0FF)
  | .sknp _ => (0xE0A1, 0xF0FF)
  | .ldVxDt _ => (0xF007, 0xF0FF)
  | .ldVxK _ => (0xF00A, 0xF0FF)
  | .ldDtVx _ => (0xF015, 0xF0FF)
  | .ldStVx _ => (0xF018, 0xF0FF)
  | .addI _ => (0xF01E, 0xF0FF)
  | .ldF _ => (0xF029, 0xF0FF)
  | .ldB _ => (0xF033, 0xF0FF)
  | .ldMemVx _ => (0xF055, 0xF0FF)
  | .ldVxMem _ => (0xF065, 0xF0FF)
  | .unknown _ => (0x0000, 0x0000)

/-- The encoding of a well-formed instruction has the fixed bits of its row. -/
def Statement (i : Instr) : Prop := i.wf = true → encode i &&& (row i).2 = (row i).1

theorem cls (z : Nibble) : Statement (.cls z) := fun _ => (formXKK_low _ z _).trans rfl
theorem ret (z : Nibble) : Statement (.ret z) := fun _ => (formXKK_low _ z _).trans rfl
theorem jp (nnn : Addr) : Statement (.jp nnn) := fun _ => (formNNN_category _ nnn).trans rfl
theorem call (nnn : Addr) : Statement (.call nnn) := fun _ => (formNNN_category _ nnn).trans rfl
theorem seImm (x : Nibble) (kk : Byte) : Statement (.seImm x kk) := fun _ => (formXKK_category _ x kk).trans rfl
theorem sneImm (x : Nibble) (kk : Byte) : Statement (.sneImm x kk) := fun _ => (formXKK_category _ x kk).trans rfl
theorem seReg (x y z : Nibble) : Statement (.seReg x y z) := fun _ => (formXYN_category _ x y z).trans rfl
theorem ldImm (x : Nibble) (kk : Byte) : Statement (.ldImm x kk) := fun _ => (formXKK_category _ x kk).trans rfl
theorem addImm (x : Nibble) (kk : Byte) : Statement (.addImm x kk) := fun _ => (formXKK_category _ x kk).trans rfl
theorem ldReg (x y : Nibble) : Statement (.ldReg x y) := fun _ => (formXYN_low _ x y _).trans rfl
theorem or (x y : Nibble) : Statement (.or x y) := fun _ => (formXYN_low _ x y _).trans rfl
theorem and (x y : Nibble) : Statement (.and x y) := fun _ => (formXYN_low _ x y _).trans rfl
theorem xor (x y : Nibble) : Statement (.xor x y) := fun _ => (formXYN_low _ x y _).trans rfl
theorem addReg (x y : Nibble) : Statement (.addReg x y) := fun _ => (formXYN_low _ x y _).trans rfl
theorem sub (x y : Nibble) : Statement (.sub x y) := fun _ => (formXYN_low _ x y _).trans rfl
theorem shr (x z : Nibble) : Statement (.shr x z) := fun _ => (formXYN_low _ x z _).trans rfl
theorem subn (x y : Nibble) : Statement (.subn x y) := fun _ => (formXYN_low _ x y _).trans rfl
theorem shl (x z : Nibble) : Statement (.shl x z) := fun _ => (formXYN_low _ x z _).trans rfl
theorem sneReg (x y z : Nibble) : Statement (.sneReg x y z) := fun _ => (formXYN_category _ x y z).trans rfl
theorem ldI (nnn : Addr) : Statement (.ldI nnn) := fun _ => (formNNN_category _ nnn).trans rfl
theorem jpV0 (nnn : Addr) : Statement (.jpV0 nnn) := fun _ => (formNNN_category _ nnn).trans rfl
theorem rnd (x : Nibble) (kk : Byte) : Statement (.rnd x kk) := fun _ => (formXKK_category _ x kk).trans rfl
theorem drw (x y n : Nibble) : Statement (.drw x y n) := fun _ => (formXYN_category _ x y n).trans rfl
theorem skp (x : Nibble) : Statement (.skp x) := fun _ => (formXKK_low _ x _).trans rfl
theorem sknp (x : Nibble) : Statement (.sknp x) := fun _ => (formXKK_low _ x _).trans rfl
theorem ldVxDt (x : Nibble) : Statement (.ldVxDt x) := fun _ => (formXKK_low _ x _).trans rfl
theorem ldVxK (x : Nibble) : Statement (.ldVxK x) := fun _ => (formXKK_low _ x _).trans rfl
theorem ldDtVx (x : Nibble) : Statement (.ldDtVx x) := fun _ => (formXKK_low _ x _).trans rfl
theorem ldStVx (x : Nibble) : Statement (.ldStVx x) := fun _ => (formXKK_low _ x _).trans rfl
theorem addI (x : Nibble) : Statement (.addI x) := fun _ => (formXKK_low _ x _).trans rfl
theorem ldF (x : Nibble) : Statement (.ldF x) := fun _ => (formXKK_low _ x _).trans rfl
theorem ldB (x : Nibble) : Statement (.ldB x) := fun _ => (formXKK_low _ x _).trans rfl
theorem ldMemVx (x : Nibble) : Statement (.ldMemVx x) := fun _ => (formXKK_low _ x _).trans rfl
theorem ldVxMem (x : Nibble) : Statement (.ldVxMem x) := fun _ => (formXKK_low _ x _).trans rfl
theorem unknown (op : Word) : Statement (.unknown op) := fun _ => BitVec.and_zero

end Sys2Proof.Laws.FixedBits
end

