-- ==== Sys2Proof/Tests/Slice0.lean ====
section
/-!
SUPPORT. Tests of one step or one word each, with the results of spec/95_test_vectors.md (the vector's name stands at each
test), and a witness for the hypotheses of every obligation.
-/

namespace Sys2Proof.Tests

open Sys2Proof Sys2Proof.Machine

/-! ### Helpers -/

/-- The state after reset with these registers. -/
def withRegs (rs : List (Nibble × Byte)) : State := rs.foldl (fun s r => s.setReg r.1 r.2) State.reset

/-- These bytes stored. -/
def withBytes (s : State) (bs : List (Nat × Byte)) : State := bs.foldl (fun s b => s.writeMem b.1 b.2) s

/-- The state one step after `s` with this word placed at its PC. -/
def ran (s : State) (w : Nat) : Option State :=
  match step (s.withFetchWord 16 w) with
  | .next t => some t
  | _ => none

/-- The fault that step reports, if PC and I are then as they were. -/
def stopped (s : State) (w : Nat) : Option Fault :=
  match ran s w with
  | some t => if t.pc = (s.withFetchWord 16 w).pc ∧ t.i = s.i then t.faults.head? else none
  | none => none

/-- These registers after that step. -/
def regsAfter (s : State) (w : Nat) (rs : List Nibble) : Option (List Byte) := (ran s w).map fun t => rs.map t.reg

/-- PC after that step. -/
def pcAfter (s : State) (w : Nat) : Option Word := (ran s w).map State.pc

/-- The lit pixels, row by row, of the part of the screen in these rows. -/
def litIn (s : State) (rows : List (Fin 32)) : List (Nat × Nat) :=
  rows.flatMap fun y => ((List.range 64).map (Fin.ofNat 64)).filterMap fun x =>
    if s.pixel x y then some (x.val, y.val) else none

/-- The lit pixels after that step. -/
def litAfter (s : State) (w : Nat) (rows : List (Fin 32)) : Option (List (Nat × Nat)) :=
  (ran s w).map fun t => litIn t rows

/-! ### Well-formed terms -/

-- The one check of `Instr.wf`: a word another row takes (E2's 6A3C, LD_IMM) is no UNKNOWN (R77).
theorem test_wf_refuses_a_taken_word : (Instr.unknown 0x6A3C).wf = false := by decide

-- In each category of R77 a word that a row takes is refused, and one that none takes is accepted (K1, K5, K12, K10, K13,
-- K14, K15, K16).
theorem test_wf_by_category :
    (Instr.unknown 0x00E0).wf = false ∧ (Instr.unknown 0x0000).wf = true ∧ (Instr.unknown 0x812E).wf = false ∧
    (Instr.unknown 0x8128).wf = true ∧ (Instr.unknown 0xE19E).wf = false ∧ (Instr.unknown 0xE100).wf = true ∧
    (Instr.unknown 0xF107).wf = false ∧ (Instr.unknown 0xF100).wf = true := by decide

/-! ### Decoding: words written out from spec/30_encoding.md R71 and R74 -/

-- Flow control, 0000 x 1110 0000 and so on (K1 to K6).
theorem test_decode_flow :
    decode [0x00, 0xE0] = .ok (.cls 0, []) ∧ decode [0x01, 0xE0] = .ok (.cls 1, []) ∧
    decode [0x00, 0xEE] = .ok (.ret 0, []) ∧ decode [0x0A, 0xEE] = .ok (.ret 0xA, []) ∧
    decode [0x12, 0x34] = .ok (.jp 0x234, []) ∧ decode [0x23, 0x00] = .ok (.call 0x300, []) ∧
    decode [0xB3, 0x0F] = .ok (.jpV0 0x30F, []) ∧ decode [0x00, 0x00] = .ok (.unknown 0x0000, []) ∧
    decode [0x01, 0x23] = .ok (.unknown 0x0123, []) := by decide

-- Skips (K7, K8, K9, K13, K14).
theorem test_decode_skips :
    decode [0x31, 0x34] = .ok (.seImm 1 0x34, []) ∧ decode [0x41, 0x34] = .ok (.sneImm 1 0x34, []) ∧
    decode [0x51, 0x20] = .ok (.seReg 1 2 0, []) ∧ decode [0x51, 0x21] = .ok (.seReg 1 2 1, []) ∧
    decode [0x9A, 0xB7] = .ok (.sneReg 0xA 0xB 7, []) ∧ decode [0xE1, 0x9E] = .ok (.skp 1, []) ∧
    decode [0xEA, 0xA1] = .ok (.sknp 0xA, []) ∧ decode [0xE1, 0x00] = .ok (.unknown 0xE100, []) := by decide

-- Constants (E2, L7, L9).
theorem test_decode_constants :
    decode [0x6A, 0x3C] = .ok (.ldImm 0xA 0x3C, []) ∧ decode [0x7A, 0x05] = .ok (.addImm 0xA 0x05, []) ∧
    decode [0xA1, 0x23] = .ok (.ldI 0x123, []) ∧ decode [0xC1, 0x0F] = .ok (.rnd 1 0x0F, []) := by decide

-- The ALU (K10, K11, K12 and the words of A1 to A33).
theorem test_decode_alu :
    decode [0x81, 0x20] = .ok (.ldReg 1 2, []) ∧ decode [0x81, 0x21] = .ok (.or 1 2, []) ∧
    decode [0x81, 0x22] = .ok (.and 1 2, []) ∧ decode [0x81, 0x23] = .ok (.xor 1 2, []) ∧
    decode [0x81, 0x24] = .ok (.addReg 1 2, []) := by decide

-- The rest of the ALU (K10 to K12).
theorem test_decode_alu_rest :
    decode [0x81, 0x25] = .ok (.sub 1 2, []) ∧
    decode [0x81, 0x26] = .ok (.shr 1 2, []) ∧ decode [0x81, 0x27] = .ok (.subn 1 2, []) ∧
    decode [0x81, 0x2E] = .ok (.shl 1 2, []) ∧ decode [0x81, 0x28] = .ok (.unknown 0x8128, []) ∧
    decode [0x81, 0x2F] = .ok (.unknown 0x812F, []) := by decide

-- Draw, timers, keys, index and memory (K15 to K20).
theorem test_decode_draw_and_f :
    decode [0xD1, 0x25] = .ok (.drw 1 2 5, []) ∧ decode [0xD0, 0x00] = .ok (.drw 0 0 0, []) ∧
    decode [0xF1, 0x07] = .ok (.ldVxDt 1, []) ∧ decode [0xF5, 0x0A] = .ok (.ldVxK 5, []) ∧
    decode [0xF1, 0x15] = .ok (.ldDtVx 1, []) ∧ decode [0xF1, 0x18] = .ok (.ldStVx 1, []) ∧
    decode [0xF1, 0x00] = .ok (.unknown 0xF100, []) := by decide

-- The rest of category F (K17 to K19).
theorem test_decode_f_rest :
    decode [0xF1, 0x1E] = .ok (.addI 1, []) ∧ decode [0xF1, 0x29] = .ok (.ldF 1, []) ∧
    decode [0xF1, 0x33] = .ok (.ldB 1, []) ∧ decode [0xF2, 0x55] = .ok (.ldMemVx 2, []) ∧
    decode [0xF1, 0x65] = .ok (.ldVxMem 1, []) ∧
    decode [0xF1, 0xFF] = .ok (.unknown 0xF1FF, []) ∧ decode [0xFF, 0xFF] = .ok (.unknown 0xFFFF, []) := by decide

-- Fewer than two bytes are no instruction (R70: one word is two bytes).
theorem test_decode_truncated : decode [] = .error .truncated ∧ decode [0x6A] = .error .truncated := by decide

-- The table numbers a word's bits from the least significant (spec/opcode_table.json): CALL is 0010 nnn.
theorem test_decode_table_word : decodeTableWord 16 0x2300 = some (.call 0x300) := by decide

/-! ### One step: flow control -/

-- F1.
theorem test_jp : pcAfter State.reset 0x1234 = some 0x234 := by decide

-- F3.
theorem test_call : (ran State.reset 0x2300).map (fun t => (t.stack[0], t.sp, t.pc)) = some (0x0200, 1, 0x300) := by decide

-- F6: the 17th call.
theorem test_call_overflow : stopped { State.reset with sp := 16 } 0x2300 = some (.stackOverflow 0x0200) := by decide

-- F10: the entry is the address of the CALL, control resumes at the word after it; the entry stays (R30).
theorem test_ret :
    (ran { State.reset with sp := 1, stack := State.reset.stack.set 0 0x0FFE } 0x00EE).map
      (fun t => (t.stack[0], t.sp, t.pc)) = some (0x0FFE, 0, 0x1000) := by decide

-- F5.
theorem test_ret_underflow : stopped State.reset 0x00EE = some (.stackUnderflow 0x0200) := by decide

-- F9: no wrap to 12 bits.
theorem test_jp_v0 : pcAfter (withRegs [(0, 0xFF)]) 0xBFFF = some 0x10FE := by decide

-- K10: UNKNOWN is one word forward.
theorem test_unknown : pcAfter State.reset 0x8128 = some 0x202 := by decide

/-! ### One step: skips (V1 = V2 = 33, V3 = 34) -/

-- Q1, Q2.
theorem test_se_imm :
    pcAfter (withRegs [(1, 0x33)]) 0x3133 = some 0x204 ∧ pcAfter (withRegs [(1, 0x33)]) 0x3134 = some 0x202 := by decide

-- Q3, Q4.
theorem test_sne_imm :
    pcAfter (withRegs [(1, 0x33)]) 0x4133 = some 0x202 ∧ pcAfter (withRegs [(1, 0x33)]) 0x4134 = some 0x204 := by decide

-- Q5, Q6.
theorem test_se_reg :
    pcAfter (withRegs [(1, 0x33), (2, 0x33)]) 0x5120 = some 0x204 ∧
    pcAfter (withRegs [(1, 0x33), (3, 0x34)]) 0x5130 = some 0x202 := by decide

-- Q8, Q9.
theorem test_sne_reg :
    pcAfter (withRegs [(1, 0x33), (2, 0x33)]) 0x9120 = some 0x202 ∧
    pcAfter (withRegs [(1, 0x33), (3, 0x34)]) 0x9130 = some 0x204 := by decide

-- Q11, Q13: taken with the key pressed, whose flag stays.
theorem test_skp :
    (ran ((withRegs [(1, 0x03)]).setKey 3 true) 0xE19E).map (fun t => (t.pc, t.key 3)) = some (0x204, true) ∧
    pcAfter (withRegs [(1, 0x03)]) 0xE19E = some 0x202 := by decide

-- Q12, Q14.
theorem test_sknp :
    (ran ((withRegs [(1, 0x03)]).setKey 3 true) 0xE1A1).map (fun t => (t.pc, t.key 3)) = some (0x202, true) ∧
    pcAfter (withRegs [(1, 0x03)]) 0xE1A1 = some 0x204 := by decide

-- Q15, Q16.
theorem test_key_index :
    stopped (withRegs [(1, 0x13)]) 0xE19E = some (.keyIndex 0x0013) ∧
    stopped (withRegs [(1, 0x10)]) 0xE1A1 = some (.keyIndex 0x0010) := by decide

/-! ### One step: constants -/

-- L1.
theorem test_ld_imm : regsAfter State.reset 0x6A3C [0xA] = some [0x3C] := by decide

-- L4: no carry flag; L6: with VF the destination a plain wrap.
theorem test_add_imm :
    regsAfter (withRegs [(1, 0xFF), (0xF, 0x07)]) 0x7101 [1, 0xF] = some [0x00, 0x07] ∧
    regsAfter (withRegs [(0xF, 0xFE)]) 0x7F03 [0xF] = some [0x01] := by decide

-- L8.
theorem test_ld_i : (ran State.reset 0xAFFF).map State.i = some 0x0FFF := by decide

-- L9 for any byte drawn: the mask applies to whatever the byte is.
theorem test_rnd : regsAfter State.reset 0xC10F [1] = some [Config.rnd 0 &&& 0x0F] := by rfl

/-! ### One step: the ALU (V1, V2, VF before; V1, V2, VF after) -/

/-- The three registers of the vectors A1 to A36 after a step, VF being 55 before it. -/
def alu (w : Nat) (v1 v2 : Byte) : Option (List Byte) :=
  regsAfter (withRegs [(1, v1), (2, v2), (0xF, 0x55)]) w [1, 2, 0xF]

-- A1.
theorem test_ld_reg : alu 0x8120 0x11 0x22 = some [0x22, 0x22, 0x55] := by decide

-- A3.
theorem test_or : alu 0x8121 0xAA 0x55 = some [0xFF, 0x55, 0x55] := by decide

-- A5.
theorem test_and : alu 0x8122 0xFF 0x5A = some [0x5A, 0x5A, 0x55] := by decide

-- A7; A66: VF as an ordinary destination.
theorem test_xor :
    alu 0x8123 0xAA 0x0F = some [0xA5, 0x0F, 0x55] ∧
    regsAfter (withRegs [(0xF, 0x0F), (1, 0xFF)]) 0x8F13 [0xF] = some [0xF0] := by decide

-- A10, A12.
theorem test_add_reg :
    alu 0x8124 0xFF 0xFF = some [0xFE, 0xFF, 0x01] ∧ alu 0x8124 0x7F 0x80 = some [0xFF, 0x80, 0x00] := by decide

-- A42: the sum in VF is lost to the flag; A57: the old VF is the operand.
theorem test_add_reg_vf :
    regsAfter (withRegs [(0xF, 0x81), (1, 0x01)]) 0x8F14 [0xF] = some [0x00] ∧
    regsAfter (withRegs [(0xF, 0x81), (1, 0x01)]) 0x81F4 [1, 0xF] = some [0x82, 0x00] := by decide

-- A14, A15, A45.
theorem test_sub :
    alu 0x8125 0x05 0x05 = some [0x00, 0x05, 0x01] ∧ alu 0x8125 0x05 0x06 = some [0xFF, 0x06, 0x00] ∧
    regsAfter (withRegs [(0xF, 0x81), (1, 0x01)]) 0x8F15 [0xF] = some [0x01] := by decide

-- A35, A36, A48.
theorem test_subn :
    alu 0x8127 0x00 0xFF = some [0xFF, 0xFF, 0x01] ∧ alu 0x8127 0xFF 0x00 = some [0x01, 0x00, 0x00] ∧
    regsAfter (withRegs [(0xF, 0x81), (1, 0x01)]) 0x8F17 [0xF] = some [0x00] := by decide

-- A26, A27, A51.
theorem test_shr :
    alu 0x8126 0xFF 0x99 = some [0x7F, 0x99, 0x01] ∧ alu 0x8126 0x80 0x99 = some [0x40, 0x99, 0x00] ∧
    regsAfter (withRegs [(0xF, 0x02)]) 0x8F16 [0xF] = some [0x00] := by decide

-- A32, A33, A53.
theorem test_shl :
    alu 0x812E 0x7F 0x99 = some [0xFE, 0x99, 0x00] ∧ alu 0x812E 0x81 0x99 = some [0x02, 0x99, 0x01] ∧
    regsAfter (withRegs [(0xF, 0x03)]) 0x8F1E [0xF] = some [0x00] := by decide

/-! ### One step: the framebuffer -/

/-- One lit pixel, as in W12. -/
def lit57 : State := (withRegs [(0xF, 0x09)]).setFb (Pixels.flip Pixels.dark 5 7)

-- W12: all dark, VF not written.
theorem test_cls :
    litIn lit57 [7] = [(5, 7)] ∧ litAfter lit57 0x00E0 [7] = some [] ∧ regsAfter lit57 0x00E0 [0xF] = some [0x09] := by
  decide

-- W3: the glyph 0 of the default font wraps on both axes.
theorem test_drw_wraps :
    litAfter (withRegs [(1, 0x3E), (2, 0x1E)]) 0xD125 [30, 31, 0, 1, 2] = some (
      [(0, 30), (1, 30), (62, 30), (63, 30)] ++ [(1, 31), (62, 31)] ++ [(1, 0), (62, 0)] ++ [(1, 1), (62, 1)] ++
      [(0, 2), (1, 2), (62, 2), (63, 2)]) := by decide

/-- W6's start: (0, 0) and (1, 0) lit, the sprite byte 40 at 0x301. -/
def drawnOnce : State :=
  (withBytes { State.reset with i := 0x301 } [(0x300, 0xC0), (0x301, 0x40)]).setFb
    (Pixels.flip (Pixels.flip Pixels.dark 0 0) 1 0)

-- W6: one collision is enough.
theorem test_drw_collides :
    litAfter drawnOnce 0xD121 [0] = some [(0, 0)] ∧ regsAfter drawnOnce 0xD121 [0xF] = some [0x01] := by decide

-- W8, W9, W11: no byte to read; a sprite off the end; info max(I, 0x1000).
theorem test_drw_range :
    regsAfter { withRegs [(0xF, 0x07)] with i := 0xFFFF } 0xD120 [0xF] = some [0x00] ∧
    stopped { State.reset with i := 0x0FFE } 0xD123 = some (.memRange 0x1000) ∧
    stopped { State.reset with i := 0x2000 } 0xD121 = some (.memRange 0x2000) := by decide

/-! ### One step: timers and keys -/

-- T9: DT is read, not counted.
theorem test_ld_vx_dt :
    (ran { State.reset with dt := 0xFF } 0xF107).map (fun t => (t.reg 1, t.dt)) = some (0xFF, 0xFF) := by decide

-- T1, its first step.
theorem test_ld_dt_vx : (ran (withRegs [(1, 0x02)]) 0xF115).map (fun t => (t.dt, t.st)) = some (0x02, 0x00) := by decide

-- T1, its second step.
theorem test_ld_st_vx : (ran (withRegs [(1, 0x02)]) 0xF118).map (fun t => (t.dt, t.st)) = some (0x00, 0x02) := by decide

-- T5: the lowest index, its flag alone cleared.
theorem test_ld_vx_k :
    (ran ((State.reset.setKey 7 true).setKey 2 true) 0xF50A).map (fun t => (t.reg 5, t.key 2, t.key 7, t.pc)) =
      some (0x02, false, true, 0x202) := by decide

-- T4: nothing pressed, pc stays, and the outcome port says WAIT.
theorem test_ld_vx_k_waits :
    pcAfter State.reset 0xF50A = some 0x200 ∧ (State.reset.withFetchWord 16 0xF50A).outcomePort = some .wait := by decide

/-! ### One step: index and memory -/

-- M1, M2.
theorem test_add_i :
    (ran { withRegs [(1, 0xFF), (0xF, 0x05)] with i := 0x0FFF } 0xF11E).map (fun t => (t.i, t.reg 0xF)) =
      some (0x10FE, 0x05) ∧
    (ran { withRegs [(1, 0x02)] with i := 0xFFFF } 0xF11E).map State.i = some 0x0001 := by decide

-- M3.
theorem test_ld_f :
    (ran (withRegs [(1, 0x0F)]) 0xF129).map State.i = some 0x004B ∧
    (ran (withRegs [(1, 0xFF)]) 0xF129).map State.i = some 0x04FB := by decide

/-- The bytes at these addresses after a step. -/
def bytesAfter (s : State) (w : Nat) (as : List Nat) : Option (List Byte) := (ran s w).map fun t => as.map t.readMem

-- M4.
theorem test_ld_b :
    bytesAfter { withRegs [(1, 0xEA)] with i := 0x300 } 0xF133 [0x300, 0x301, 0x302] = some [2, 3, 4] ∧
    bytesAfter { withRegs [(1, 0x63)] with i := 0x300 } 0xF133 [0x300, 0x301, 0x302] = some [0, 9, 9] := by decide

-- M5, M10.
theorem test_store_range :
    stopped { State.reset with i := 0x0FFE } 0xF033 = some (.memRange 0x1000) ∧
    stopped { State.reset with i := 0x0FFF } 0xF155 = some (.memRange 0x1000) := by decide

/-- M7's start, with the strap at `b`. -/
def dumpStart (b : Bool) : State :=
  { withRegs [(0, 0x11), (1, 0x22), (2, 0x33), (3, 0x44)] with i := 0x300, ldstIncI := b }

-- M7, with both straps.
theorem test_ld_mem_vx :
    bytesAfter (dumpStart false) 0xF255 [0x300, 0x301, 0x302, 0x303] = some [0x11, 0x22, 0x33, 0x00] ∧
    (ran (dumpStart false) 0xF255).map State.i = some 0x300 ∧
    (ran (dumpStart true) 0xF255).map State.i = some 0x303 := by decide

/-- M8's start, with the strap at `b`. -/
def loadStart (b : Bool) : State :=
  withBytes { withRegs [(3, 0x44)] with i := 0x300, ldstIncI := b }
    [(0x300, 0x09), (0x301, 0x08), (0x302, 0x07), (0x303, 0x06)]

-- M8, with both straps.
theorem test_ld_vx_mem :
    regsAfter (loadStart false) 0xF265 [0, 1, 2, 3] = some [0x09, 0x08, 0x07, 0x44] ∧
    (ran (loadStart false) 0xF265).map State.i = some 0x300 ∧
    (ran (loadStart true) 0xF265).map State.i = some 0x303 := by decide

-- M13: I above memory.
theorem test_load_range : stopped { State.reset with i := 0x1000 } 0xF065 = some (.memRange 0x1000) := by decide

-- M14: the program overwrites its own word.
theorem test_store_over_code :
    bytesAfter { withRegs [(0, 0x12)] with i := 0x200 } 0xF155 [0x200, 0x201] = some [0x12, 0x00] := by decide

/-! ### The step and the events -/

-- S1: a word at the last address; S5: a fetch at an odd address.
theorem test_fetch_places :
    pcAfter { State.reset with pc := 0x0FFE } 0x6001 = some 0x1000 ∧
    regsAfter { State.reset with pc := 0x201 } 0x6A3C [0xA] = some [0x3C] := by decide

-- S4: the low byte would be at 0x1000.
theorem test_fetch_range :
    State.outcomePort { State.reset with pc := 0x0FFF } = some (.fault 1 0x1000) := by decide

-- T3: the timers are independent and stop at zero.
theorem test_tick :
    (match step { State.reset with dt := 1, schedule := [.tick] } with
      | .next t => some (t.dt, t.st, t.pc)
      | _ => none) = some (0x00, 0x00, 0x200) := by decide

-- R35: one flag is set.
theorem test_key_set :
    (match step { State.reset with schedule := [.keySet 4 true] } with
      | .next t => some (t.key 4, t.key 5, t.pc)
      | _ => none) = some (true, false, 0x200) := by decide

-- F5, then R186: the return on an empty stack is recorded, PC and SP stay, and the step goes on.
theorem test_fault_goes_on :
    (ran State.reset 0x00EE).map (fun t => (t.pc, t.sp, t.faults)) = some (0x200, 0, [.stackUnderflow 0x0200]) := by decide

-- R213, with P5's image: the bytes from 0x200, the rest as after reset.
theorem test_reset_event :
    (match step { withRegs [(1, 0x33)] with pc := 0x300, schedule := [.reset [0x22, 0x00]] } with
      | .next t => some (t.readMem 0x200, t.readMem 0x201, t.pc, t.reg 1, t.readMem 5)
      | _ => none) = some (0x22, 0x00, 0x200, 0x00, 0x20) := by decide

/-! ### Witnesses: the hypotheses of every obligation are met, each clause at a boundary -/

/-- The bytes of one word at an address, in memory order. -/
def withWord (s : State) (a : Nat) (hi lo : Byte) : State := withBytes s [(a, hi), (a + 1, lo)]

-- Every constructor but UNKNOWN is well-formed whatever its operands; here UNKNOWN (K10) and one operand at its end.
theorem witness_DecodeEncodeRoundTrip :
    (Instr.unknown 0x8128).wf = true ∧ (Instr.drw 0xF 0xF 0xF).wf = true := by decide

theorem witness_UnknownWordsAreTheTable :
    decodeWord 0x0000 = .unknown 0x0000 ∧ decodeWord 0x812F = .unknown 0x812F ∧ decodeWord 0xE100 = .unknown 0xE100 ∧
    decodeWord 0xFFFF = .unknown 0xFFFF := by decide

theorem witness_UnexaminedBitsDoNothing :
    ((0x00E0#16).toNat / 4096 = 0x0 ∧ 0x0FE0#16 &&& 0xF0FF#16 = 0x00E0#16 &&& 0xF0FF#16) ∧
    ((0x5120#16).toNat / 4096 = 0x5 ∧ 0x512F#16 &&& 0xFFF0#16 = 0x5120#16 &&& 0xFFF0#16) ∧
    ((0x9AB0#16).toNat / 4096 = 0x9 ∧ 0x9AB7#16 &&& 0xFFF0#16 = 0x9AB0#16 &&& 0xFFF0#16) ∧
    (0x8126#16 &&& 0xF00F#16 = 0x8006#16 ∧ 0x81F6#16 &&& 0xFF0F#16 = 0x8126#16 &&& 0xFF0F#16) ∧
    (0x812E#16 &&& 0xF00F#16 = 0x800E#16 ∧ 0x810E#16 &&& 0xFF0F#16 = 0x812E#16 &&& 0xFF0F#16) := by decide

/-- S1's start: the word 6001 at the last address that holds one. -/
def lastWord : State := withWord { State.reset with pc := 0x0FFE } 0xFFE 0x60 0x01

theorem witness_StepRunsDecodedInstruction :
    lastWord.pc.toNat ≤ 0x0FFE ∧ (Instr.ldImm 0 1).wf = true ∧
    decode (lastWord.readMem lastWord.pc.toNat :: lastWord.readMem (lastWord.pc.toNat + 1) :: []) =
      .ok (.ldImm 0 1, []) ∧
    (State.schedule { lastWord with driver := .steady } = [] ∧ State.driver { lastWord with driver := .steady } = .steady) ∧
    State.schedule { lastWord with schedule := [.step, .tick] } = .step :: [.tick] := by decide

-- F5's fault, and the stop of log 8.
theorem witness_StepRunsDecodedInstruction_faults :
    exec (.ret 0) State.reset = .fault (.stackUnderflow 0x200) ∧ (Fault.stackUnderflow 0x200).isReported = true ∧
    exec (.ret 0) { State.reset with sp := 17 } = .fault (.stackPointerIllegal 17) ∧
    (Fault.stackPointerIllegal 17).isReported = false := ⟨rfl, rfl, rfl, rfl⟩

theorem witness_FetchIsBigEndianOrFaults :
    0x0FFE < (State.pc { State.reset with pc := 0x0FFF }).toNat ∧ lastWord.pc.toNat ≤ 0x0FFE ∧
    (0x6001#16).toNat =
      256 * (lastWord.readMem lastWord.pc.toNat).toNat + (lastWord.readMem (lastWord.pc.toNat + 1)).toNat := by
  decide

theorem witness_NextEventIsTaken :
    State.schedule { State.reset with schedule := [.tick, .step] } = .tick :: [.step] ∧
    (State.reset.schedule = [] ∧ State.reset.driver = .free 0) ∧
    State.schedule { State.reset with driver := .steady } = [] ∧
    State.driver { State.reset with driver := .steady } = .steady := by decide

theorem witness_FreeDriverNeverEnds :
    (State.reset.schedule = [] ∧ State.reset.driver = .free 0) ∧
    State.schedule { State.reset with driver := .free 7 } = [] ∧
    State.driver { State.reset with driver := .free 7 } = .free 7 := by decide

-- R33, R35: both events always have a move, the timers at zero too, the key the last one.
theorem witness_TickCountsDown_KeySetSetsOneKey :
    (∃ t, handle .tick State.reset = .next t) ∧ ∃ t, handle (.keySet 0xF true) State.reset = .next t :=
  ⟨⟨_, rfl⟩, _, rfl⟩

theorem witness_ResetEventBoots :
    (State.schedule { State.reset with schedule := [.reset []] } = .reset [] :: [] ∧ ([] : List Byte).length ≤ 3584) ∧
    (List.replicate 3584 (0xA5 : Byte)).length ≤ 3584 ∧ 3584 < (List.replicate 3585 (0xA5 : Byte)).length := by
  refine ⟨by decide, ?_, ?_⟩ <;> rw [List.length_replicate]
  exact Nat.lt_succ_self 3584

/-- T4's start: F50A at 0x200, no key pressed. -/
def waitStart : State := withWord State.reset 0x200 0xF5 0x0A

theorem witness_WaitingStepChangesNothing :
    waitStart.pc.toNat ≤ 0x0FFE ∧ waitStart.readMem waitStart.pc.toNat = 0xF0#8 ||| (5#4).setWidth 8 ∧
    waitStart.readMem (waitStart.pc.toNat + 1) = 0x0A#8 ∧ ∀ k : Nibble, waitStart.key k = false := by decide

theorem witness_KeyPressEndsWait :
    State.schedule { waitStart with schedule := [.keySet 0xF true, .step] } = .keySet 0xF true :: .step :: [] ∧
    (State.pc { waitStart with schedule := [.keySet 0xF true, .step] }).toNat ≤ 0x0FFE ∧
    State.readMem { waitStart with schedule := [.keySet 0xF true, .step] } 0x200 = 0xF0#8 ||| (5#4).setWidth 8 ∧
    State.readMem { waitStart with schedule := [.keySet 0xF true, .step] } 0x201 = 0x0A#8 ∧
    ∀ j : Nibble, State.key { waitStart with schedule := [.keySet 0xF true, .step] } j = false := by decide

/-- F7's start: one entry free, the word 2300 at PC. -/
def callStart : State := withWord { State.reset with sp := 15, driver := .steady } 0x200 0x23 0x00

theorem witness_StepKeepsInvariant : Invariant callStart ∧ ∃ t, step callStart = .next t := by
  refine ⟨⟨by decide, by decide, by decide, by decide⟩, _, rfl⟩

theorem witness_ParametersNeverChange : ∃ t, step callStart = .next t := ⟨_, rfl⟩

theorem witness_CallPushesItsAddress :
    (State.sp { State.reset with sp := 16 }).toNat = 16 ∧ callStart.sp.toNat < 16 ∧ State.reset.sp.toNat < 16 ∧
    0x2300#16 &&& 0xF000#16 = 0x2000#16 := by decide

theorem witness_ReturnResumesAfterCall :
    State.reset.sp.toNat = 0 ∧ (State.sp { State.reset with sp := 1 }).toNat = (0 : Fin 16).val + 1 ∧
    (State.sp { State.reset with sp := 16 }).toNat = (15 : Fin 16).val + 1 ∧
    State.reset.sp.toNat + ((List.replicate 15 (0x300 : Addr)).length + 1) ≤ 16 ∧
    callStart.sp.toNat + (([] : List Addr).length + 1) ≤ 16 ∧ 0x0AEE#16 &&& 0xF0FF#16 = 0x00EE#16 := by decide

theorem witness_IllegalStackPointerStops : 16 < (State.sp { State.reset with sp := 17 }).toNat := by decide

theorem witness_UnknownIsNoOperation : decodeWord 0x0123 = .unknown 0x0123 := by decide

-- One word for each row stated by `EncodedAs`, every field at its end.
theorem witness_EncodedAs_flow_skips :
    0x1FFF#16 &&& 0xF000#16 = 0x1000#16 ∧ 0xBFFF#16 &&& 0xF000#16 = 0xB000#16 ∧ 0x3FFF#16 &&& 0xF000#16 = 0x3000#16 ∧
    0x4FFF#16 &&& 0xF000#16 = 0x4000#16 ∧ 0x5FFF#16 &&& 0xF000#16 = 0x5000#16 ∧ 0x9FFF#16 &&& 0xF000#16 = 0x9000#16 ∧
    0xEF9E#16 &&& 0xF0FF#16 = 0xE09E#16 ∧ 0xEFA1#16 &&& 0xF0FF#16 = 0xE0A1#16 := by decide

theorem witness_EncodedAs_constants_alu :
    0x6FFF#16 &&& 0xF000#16 = 0x6000#16 ∧ 0x7FFF#16 &&& 0xF000#16 = 0x7000#16 ∧ 0xAFFF#16 &&& 0xF000#16 = 0xA000#16 ∧
    0xCFFF#16 &&& 0xF000#16 = 0xC000#16 ∧ 0x8FF0#16 &&& 0xF00F#16 = 0x8000#16 ∧ 0x8FF1#16 &&& 0xF00F#16 = 0x8001#16 ∧
    0x8FF2#16 &&& 0xF00F#16 = 0x8002#16 ∧ 0x8FF3#16 &&& 0xF00F#16 = 0x8003#16 := by decide

theorem witness_EncodedAs_flag_alu :
    0x8FF4#16 &&& 0xF00F#16 = 0x8004#16 ∧ 0x8FF5#16 &&& 0xF00F#16 = 0x8005#16 ∧ 0x8FF6#16 &&& 0xF00F#16 = 0x8006#16 ∧
    0x8FF7#16 &&& 0xF00F#16 = 0x8007#16 ∧ 0x8FFE#16 &&& 0xF00F#16 = 0x800E#16 ∧ 0x01E0#16 &&& 0xF0FF#16 = 0x00E0#16 ∧
    0xDFFF#16 &&& 0xF000#16 = 0xD000#16 := by decide

theorem witness_EncodedAs_f :
    0xFF07#16 &&& 0xF0FF#16 = 0xF007#16 ∧ 0xFF0A#16 &&& 0xF0FF#16 = 0xF00A#16 ∧ 0xFF15#16 &&& 0xF0FF#16 = 0xF015#16 ∧
    0xFF18#16 &&& 0xF0FF#16 = 0xF018#16 ∧ 0xFF1E#16 &&& 0xF0FF#16 = 0xF01E#16 ∧ 0xFF29#16 &&& 0xF0FF#16 = 0xF029#16 ∧
    0xFF33#16 &&& 0xF0FF#16 = 0xF033#16 ∧ 0xFF55#16 &&& 0xF0FF#16 = 0xF055#16 ∧
    0xFF65#16 &&& 0xF0FF#16 = 0xF065#16 := by decide

theorem witness_RegisterSkips :
    ((withRegs [(1, 0x33)]).reg 1).toNat = (0x33 : Byte).toNat ∧ ((withRegs [(1, 0x33)]).reg 1).toNat ≠ (0x34 : Byte).toNat ∧
    ((withRegs [(1, 0x33), (2, 0x33)]).reg 1).toNat = ((withRegs [(1, 0x33), (2, 0x33)]).reg 2).toNat ∧
    ((withRegs [(1, 0x33)]).reg 1).toNat ≠ ((withRegs [(1, 0x33)]).reg 2).toNat := by decide

theorem witness_KeySkips :
    ((withRegs [(1, 0x0F)]).reg 1).toNat = (0xF : Nibble).toNat ∧ (State.reset.reg 1).toNat = (0 : Nibble).toNat ∧
    15 < ((withRegs [(1, 0x10)]).reg 1).toNat ∧
    ((withRegs [(1, 0x0F)]).setKey 0xF true).key 0xF = true ∧ State.reset.key 0 = false := by decide

theorem witness_RandomByteIgnoredByOthers :
    (∀ x kk, Instr.cls 0 ≠ .rnd x kk) ∧ ∃ t, exec (.cls 0) State.reset = .next t :=
  ⟨fun _ _ h => Instr.noConfusion h, _, rfl⟩

theorem witness_FlagClauses :
    255 < ((withRegs [(1, 0xFF), (2, 0x01)]).reg 1).toNat + ((withRegs [(1, 0xFF), (2, 0x01)]).reg 2).toNat ∧
    ¬255 < ((withRegs [(1, 0xFF)]).reg 1).toNat + ((withRegs [(1, 0xFF)]).reg 2).toNat ∧
    (State.reset.reg 2).toNat ≤ (State.reset.reg 1).toNat ∧
    ¬((withRegs [(2, 0x01)]).reg 2).toNat ≤ ((withRegs [(2, 0x01)]).reg 1).toNat ∧ (1#4 : Nibble) ≠ 0xF#4 := by decide

theorem witness_DrawTogglesSprite :
    (1 ≤ (3 : Nibble).toNat ∧ 0xFFF < (State.i { State.reset with i := 0x0FFE }).toNat + (3 : Nibble).toNat - 1) ∧
    ((0 : Nibble).toNat = 0 ∨ (State.i { State.reset with i := 0xFFFF }).toNat + (0 : Nibble).toNat - 1 ≤ 0xFFF) ∧
    ((3 : Nibble).toNat = 0 ∨ (State.i { State.reset with i := 0x0FFD }).toNat + (3 : Nibble).toNat - 1 ≤ 0xFFF) := by
  decide

-- W3's glyph hits the corner: row 0, column 2 of a sprite at (62, 30) is the pixel (0, 30).
theorem witness_SpriteHits : SpriteHits State.reset 0x3E 0x1E 5 0 30 := ⟨0, 2, by decide⟩

/-- W2: V1 and V2 hold the coordinates, and VF is neither. -/
theorem witness_DrawTwiceRestores :
    (∃ t u, exec (.drw 1 2 1) drawnOnce = .next t ∧ exec (.drw 1 2 1) t = .next u ∧ t.reg 1 = drawnOnce.reg 1 ∧
      t.reg 2 = drawnOnce.reg 2) ∧
    ∃ t u, exec (.cls 0) drawnOnce = .next t ∧ exec (.drw 1 2 1) t = .next u :=
  ⟨⟨_, _, rfl, rfl, by decide, by decide⟩, _, _, rfl, rfl⟩

/-- T5's start: the keys 2 and 7 pressed. -/
def twoKeys : State := (State.reset.setKey 7 true).setKey 2 true

theorem witness_KeyWaitTakesLeastKey :
    (twoKeys.key 2 = true ∧ ∀ j : Nibble, j.toNat < (2 : Nibble).toNat → twoKeys.key j = false) ∧
    ((State.reset.setKey 0xF true).key 0xF = true ∧
      ∀ j : Nibble, j.toNat < (0xF : Nibble).toNat → (State.reset.setKey 0xF true).key j = false) ∧
    (∀ k : Nibble, State.reset.key k = false) ∧
    (waitStart.pc.toNat ≤ 0x0FFE ∧ waitStart.readMem waitStart.pc.toNat = 0xF0#8 ||| (5#4).setWidth 8 ∧
      waitStart.readMem (waitStart.pc.toNat + 1) = 0x0A#8) := by decide

theorem witness_SoundTimerIsNeverRead : ∃ t, exec (.ldStVx 1) (withRegs [(1, 0x02)]) = .next t := ⟨_, rfl⟩

theorem witness_BcdStoresThreeDigits :
    0xFFF < (State.i { State.reset with i := 0x0FFE }).toNat + 2 ∧
    (State.i { State.reset with i := 0x0FFD }).toNat + 2 ≤ 0xFFF := by decide

theorem witness_RegisterDump_RegisterLoad :
    0xFFF < (State.i { State.reset with i := 0x0FFF }).toNat + (1 : Nibble).toNat ∧
    (State.i { State.reset with i := 0x0FFF }).toNat + (0 : Nibble).toNat ≤ 0xFFF ∧
    (State.i { State.reset with i := 0x0FF0 }).toNat + (0xF : Nibble).toNat ≤ 0xFFF := by decide

/-- P4's store: 6A and 3C in V0 and V1, I at 0x20A. -/
def storeStart : State := { withRegs [(0, 0x6A), (1, 0x3C)] with i := 0x20A }

/-- What that store leaves, with PC moved to the word stored. -/
def storeEnd : State := { withBytes storeStart [(0x20A, 0x6A), (0x20B, 0x3C)] with pc := 0x20A }

theorem witness_StoredCodeIsFetched :
    (∃ t, exec (.ldMemVx 1) storeStart = .next t ∧ storeEnd.mem = t.mem ∧ storeEnd.font = t.font) ∧
    (1 : Nibble).toNat = (0 : Nibble).toNat + 1 ∧ (1 : Nibble).toNat ≤ (1 : Nibble).toNat ∧
    (0x6A3C#16).toNat = 256 * (storeStart.reg 0).toNat + (storeStart.reg 1).toNat ∧
    storeEnd.pc.toNat = storeStart.i.toNat + (0 : Nibble).toNat :=
  ⟨⟨_, rfl, by decide, by decide⟩, by decide⟩

theorem witness_PcPolicy :
    (∃ t, exec (.ret 0) callStart = .next t) ∧ callStart.sp.toNat = (14 : Fin 16).val + 1 ∧
    (∃ t, exec (.skp 1) (withRegs [(1, 0x0F)]) = .next t) ∧
    (0xF : Nibble).toNat = ((withRegs [(1, 0x0F)]).reg 1).toNat ∧ ∃ t, exec (.ldVxK 5) twoKeys = .next t :=
  ⟨⟨_, rfl⟩, by decide, ⟨_, rfl⟩, by decide, _, rfl⟩

theorem witness_FaultsAreTheTable :
    State.reset.sp.toNat ≤ 16 ∧ (State.sp { State.reset with sp := 16 }).toNat ≤ 16 ∧
    exec (.call 0x300) { State.reset with sp := 16 } = .fault (.stackOverflow 0x200) := ⟨by decide, by decide, rfl⟩

theorem witness_CompletesExactlyWhenRespected :
    Respects (.call 0x300) callStart ∧ ¬Respects (.call 0x300) { State.reset with sp := 16 } ∧
    Respects (.skp 1) (withRegs [(1, 0x0F)]) ∧ ¬Respects (.skp 1) (withRegs [(1, 0x10)]) ∧
    Respects (.ldVxMem 0) { State.reset with i := 0x0FFF } ∧ ¬Respects (.ldVxMem 1) { State.reset with i := 0x0FFF } := by
  refine ⟨?_, ?_, ?_, ?_, ?_, ?_⟩ <;> simp only [Respects] <;> decide

theorem witness_OutcomePortReports :
    waitStart.sp.toNat ≤ 16 ∧ (0xF50A#16).toNat =
      256 * (waitStart.readMem waitStart.pc.toNat).toNat + (waitStart.readMem (waitStart.pc.toNat + 1)).toNat := by
  decide

theorem witness_FaultRecurs :
    (Event.tick = .tick ∧ State.coreStep { State.reset with pc := 0x1000 } = .fault (.fetchRange 0x1000) ∧
      ∃ t, handle .tick { State.reset with pc := 0x1000 } = .next t) ∧
    (∃ t, handle (.keySet 3 true) { State.reset with pc := 0x1000 } = .next t) ∧
    ∃ t, handle .step { State.reset with pc := 0x1000 } = .next t :=
  ⟨⟨rfl, rfl, _, rfl⟩, ⟨_, rfl⟩, _, rfl⟩

theorem witness_FaultIsNotFinal :
    (State.coreStep { State.reset with pc := 0x1000, schedule := [.step, .reset [], .tick] } = .fault (.fetchRange 0x1000) ∧
      (Fault.fetchRange 0x1000).isReported = true) ∧
    (State.schedule { State.reset with pc := 0x1000, schedule := [.step, .reset [], .tick] } =
      .step :: .reset [] :: [.tick] ∧ ([] : List Byte).length ≤ 3584) := ⟨⟨rfl, rfl⟩, rfl, by decide⟩

theorem witness_OnlyNamedStateIsWritten :
    (∃ t, exec (.addReg 1 2) State.reset = .next t) ∧ ¬WritesReg (.addReg 1 2) 3 :=
  ⟨⟨_, rfl⟩, by simp only [WritesReg]; decide⟩

/-- The state F3 leaves, and a stack that differs from its own above SP alone. -/
def oneEntry : State := { State.reset with sp := 1, stack := State.reset.stack.set 0 0x0200 }

theorem witness_PoppedEntriesUnobservable :
    (∀ k : Fin 16, k.val < oneEntry.sp.toNat → (oneEntry.stack.set 15 0x0ABC)[k] = oneEntry.stack[k]) ∧
    ∃ t, exec (.ret 0) oneEntry = .next t := ⟨by decide, _, rfl⟩

end Sys2Proof.Tests
end

/-!
SUPPORT. Events and what stands outside the core (spec/00_scope.md R12, log 4): what an event that goes on has done, that no
event reads or writes the schedule and the driver, and that none writes the strap or FONT (spec/10_state.md R41).
-/

namespace Sys2Proof.Machine

open Sys2Proof

/-! ### What an operation that goes on has done -/

/-- A checked access that goes on ends in the state it was to end in. -/
theorem State.eq_of_checked_next {s t u : State} {len : Nat} (h : s.checked len u = .next t) : t = u := by
  rcases s.checked_cases len u with ⟨-, e⟩ | ⟨-, e⟩ <;> rw [e] at h <;> cases h
  rfl

/-- A key skip that goes on is a skip, taken or not. -/
theorem eq_skipIf_of_skipOnKey_next {x : Nibble} {wanted : Bool} {s t : State} (h : skipOnKey x wanted s = .next t) :
    ∃ c, t = s.skipIf c := by
  rcases skipOnKey_cases x wanted s with ⟨-, e⟩ | ⟨-, e⟩ <;> rw [e] at h <;> cases h
  exact ⟨_, rfl⟩

/-- A `Step` of the core that goes on is the execution of a fetched word. -/
theorem State.exec_of_coreStep_next {s t : State} (h : s.coreStep = .next t) : ∃ i, exec i s = .next t := by
  unfold State.coreStep at h
  cases hf : s.fetch with
  | ok op => rw [hf] at h; exact ⟨_, h⟩
  | error f => rw [hf] at h; cases h

/-- An event `Step` that goes on is a `Step` of the core, or a reported fault put on record (R186). -/
theorem State.stepEvent_next {s t : State} (h : s.stepEvent = .next t) :
    s.coreStep = .next t ∨ ∃ f, t = s.recordFault f := by
  unfold State.stepEvent at h
  rcases s.conclude_cases s.coreStep with ⟨u, hc, e⟩ | ⟨f, -, -, e⟩ | ⟨f, -, -, e⟩ | ⟨r, -, e⟩ <;>
    rw [e] at h <;> cases h
  · exact .inl hc
  · exact .inr ⟨f, rfl⟩

/-- A reset that goes on has loaded its image (R213). -/
theorem State.eq_load_of_boot_next {s t : State} {image : List Byte} (h : s.boot image = .next t) :
    t = s.afterReset.load image := by
  unfold State.boot at h
  split at h <;> cases h
  rfl

/-! ### The schedule and the driver are outside the core -/

/-- The same machine with other events to come; the record of faults stays. -/
def State.drivenBy (s : State) (schedule : List Event) (driver : Driver) : State := s.outside schedule driver s.faults

theorem State.conclude_drivenBy (s : State) (r : StepResult) (a : List Event) (b : Driver) :
    (s.drivenBy a b).conclude (mapNext (fun u => u.drivenBy a b) r) = mapNext (fun u => u.drivenBy a b) (s.conclude r) := by
  cases r with
  | next t => rfl
  | fault f => simp only [mapNext, State.conclude]; split <;> rfl
  | refused e => rfl

theorem State.coreStep_drivenBy (s : State) (a : List Event) (b : Driver) :
    (s.drivenBy a b).coreStep = mapNext (fun u => u.drivenBy a b) s.coreStep := by
  have e := s.coreStep_outside a b s.faults
  cases hc : s.coreStep with
  | next t => rw [hc] at e; rw [State.drivenBy, e, mapNext, mapNext, State.drivenBy, State.coreStep_faults hc]
  | fault f => rw [hc] at e; exact e
  | refused r => rw [hc] at e; exact e

/-- An event does the same whatever events come after it. -/
theorem handle_drivenBy (e : Event) (s : State) (a : List Event) (b : Driver) :
    handle e (s.drivenBy a b) = mapNext (fun u => u.drivenBy a b) (handle e s) := by
  cases e with
  | reset image => simp only [handle, State.boot]; split <;> rfl
  | step => simp only [handle, State.stepEvent, State.coreStep_drivenBy, State.conclude_drivenBy]
  | tick => rfl
  | keySet k b => rfl

/-- An event leaves the events to come as they are. -/
theorem handle_keeps_driver {e : Event} {s t : State} (h : handle e s = .next t) :
    t.schedule = s.schedule ∧ t.driver = s.driver := by
  have own := handle_drivenBy e s s.schedule s.driver
  rw [show s.drivenBy s.schedule s.driver = s from rfl, h, mapNext] at own
  have ht : t = t.drivenBy s.schedule s.driver := Host.Outcome.next.inj own
  rw [ht]
  exact ⟨rfl, rfl⟩

/-- From a state with no event issued, a schedule is performed as those events. -/
theorem runFor_schedule (events : List Event) {s : State} (hs : s.schedule = []) :
    runFor events.length { s with schedule := events } = perform events s := by
  induction events generalizing s with
  | nil => exact congrArg (fun l => Host.Outcome.next { s with schedule := l }) hs.symm
  | cons e later ih =>
    have hstep : step { s with schedule := e :: later } = mapNext (fun u => u.drivenBy later s.driver) (handle e s) :=
      handle_drivenBy e s later s.driver
    rw [List.length_cons, runFor, perform, hstep]
    cases he : handle e s with
    | next t =>
      obtain ⟨hsch, hdrv⟩ := handle_keeps_driver he
      have ht : t.drivenBy later s.driver = { t with schedule := later } := by rw [← hdrv]; rfl
      simp only [mapNext, ht]
      exact ih (hsch.trans hs)
    | fault f => rfl
    | refused r => rfl

/-! ### The strap and FONT are parameters -/

theorem State.skipIf_keeps_params (s : State) (c : Bool) : Part.params.Same s (s.skipIf c) := by
  rw [State.skipIf_eq]
  exact ⟨rfl, rfl⟩

/-- An instruction writes neither parameter: those that can fault by the way they go on, the others by their one result. -/
theorem exec_keeps_params {i : Instr} {s t : State} (h : exec i s = .next t) : Part.params.Same s t := by
  cases i with
  | ret _ | call _ =>
    simp only [exec, execRet, execCall] at h
    split at h
    · cases h
    · split at h <;> cases h
      exact ⟨rfl, rfl⟩
  | drw _ _ _ | ldB _ | ldMemVx _ | ldVxMem _ => rw [State.eq_of_checked_next h]; exact ⟨rfl, rfl⟩
  | skp _ | sknp _ => obtain ⟨c, rfl⟩ := eq_skipIf_of_skipOnKey_next h; exact s.skipIf_keeps_params c
  | seImm _ _ | sneImm _ _ | seReg _ _ _ | sneReg _ _ _ => cases h; exact s.skipIf_keeps_params _
  | ldVxK _ =>
    simp only [exec, execLdVxK] at h
    split at h
    · cases h; exact ⟨rfl, rfl⟩
    · cases h; exact ⟨rfl, rfl⟩
  | _ => cases h; exact ⟨rfl, rfl⟩

theorem handle_keeps_params {e : Event} {s t : State} (h : handle e s = .next t) : Part.params.Same s t := by
  cases e with
  | reset image => rw [State.eq_load_of_boot_next h]; exact ⟨rfl, rfl⟩
  | step =>
    rcases State.stepEvent_next h with hc | ⟨f, rfl⟩
    · obtain ⟨i, hi⟩ := State.exec_of_coreStep_next hc
      exact exec_keeps_params hi
    · exact ⟨rfl, rfl⟩
  | tick => cases h; exact ⟨rfl, rfl⟩
  | keySet k b => cases h; exact ⟨rfl, rfl⟩

/-! ### The obligations of spec/00_scope.md -/

/-- Settles O7: the branches of `State.nextEvent`, each picked by what the schedule and the driver hold. -/
theorem nextEventIsTaken : Obligations.NextEventIsTaken := by
  intro s
  refine ⟨fun e later hs => ?_, fun hs hd => ?_, fun n hs hd => ?_⟩
  · rw [step, State.nextEvent, hs]
  · rw [step, State.nextEvent, hs, hd]
  · rw [step, State.nextEvent, hs, hd]

/-- Settles O8, by induction on the schedule: an event does the same whatever events come after it. -/
theorem scheduleIsPerformedInOrder : Obligations.ScheduleIsPerformedInOrder :=
  fun events s => runFor_schedule events (s := { s with schedule := [] }) rfl

/-- Settles O19: whichever event the step is, it is one that keeps both parameters. -/
theorem parametersNeverChange : Obligations.ParametersNeverChange := by
  intro s t h
  rcases step_cases s with ⟨e, later, -, he⟩ | ⟨-, -, he⟩ | ⟨n, -, -, he⟩
  · exact (handle_keeps_params (he.symm.trans h) :)
  · exact handle_keeps_params (he.symm.trans h)
  · exact (handle_keeps_params (he.symm.trans h) :)

end Sys2Proof.Machine

/-!
SUPPORT. The state and its invariant (spec/10_state.md): what an instruction that can stop has done when it goes on,
that every event keeps the invariant, which parts of the state an instruction writes, and which it does not read.
-/

namespace Sys2Proof.Machine

open Sys2Proof

/-! ### What an operation that goes on has done, and from where -/

theorem State.checked_next_iff {s t u : State} {len : Nat} :
    s.checked len u = .next t ↔ s.inRange len = true ∧ t = u := by
  rcases s.checked_cases len u with ⟨hr, e⟩ | ⟨hr, e⟩ <;> simp [hr, e, eq_comm]

/-- R57: an access of at least one byte that is in range ends inside memory. -/
theorem State.add_le_memSize_of_inRange {s : State} {len : Nat} (h : s.inRange len = true) (hlen : 0 < len) :
    s.i.toNat + len ≤ Config.memSize := by
  have := (s.inRange_iff len).1 h
  rw [Config.memSize]
  omega

/-- A guarded result that goes on has met its guard. -/
theorem guarded_next_iff {c : Prop} [Decidable c] {next : c → State} {f : Fault} {t : State} :
    (if h : c then Host.Outcome.next (next h) else raise f) = .next t ↔ ∃ h, t = next h := by
  by_cases h : c
  · simp [h, eq_comm]
  · simp [h, raise]

theorem execRet_next_iff {s t : State} : execRet s = .next t ↔ ∃ h, t = s.pop.jump (s.top h + 2) := by
  unfold execRet
  split
  · next h0 => simp [h0, raise]
  · exact guarded_next_iff

theorem execCall_next_iff {nnn : Addr} {s t : State} :
    execCall nnn s = .next t ↔ ∃ h, t = (s.push s.pc h).jump (zextAddr nnn) := by
  unfold execCall
  split
  · next h16 => simp [h16, raise]
  · exact guarded_next_iff

theorem State.boot_next_iff {s t : State} {image : List Byte} :
    s.boot image = .next t ↔ image.length ≤ Config.maxImage ∧ t = s.afterReset.load image := by
  unfold State.boot
  split
  · next h => simp [h, eq_comm]
  · next h => simp [h]

/-- LD Vx, K has taken the key found, or with none pressed it has changed nothing (R156). -/
theorem execLdVxK_next {x : Nibble} {s t : State} (h : execLdVxK x s = .next t) :
    (∃ k : Nibble, t = ((s.setReg x (k.setWidth 8)).setKey k false).advance) ∨ t = s := by
  unfold execLdVxK at h
  split at h <;> cases h
  · exact .inl ⟨_, rfl⟩
  · exact .inr rfl

/-- A `Step` of the core that goes on has fetched its word inside memory (R91). -/
theorem State.pc_le_of_coreStep_next {s t : State} (h : s.coreStep = .next t) : s.pc.toNat ≤ 0x0FFE := by
  rcases s.fetch_cases with ⟨hpc, -⟩ | ⟨-, hf⟩
  · exact hpc
  · rw [State.coreStep, hf] at h; cases h

/-- A step that goes on is an event that goes on, in the same machine with other events to come. -/
theorem exists_handle_of_step_next {s t : State} (h : step s = .next t) :
    ∃ e a b, handle e (s.drivenBy a b) = .next t := by
  rcases step_cases s with ⟨e, later, -, he⟩ | ⟨-, -, he⟩ | ⟨n, -, -, he⟩
  · exact ⟨e, later, s.driver, he.symm.trans h⟩
  · exact ⟨.step, s.schedule, s.driver, he.symm.trans h⟩
  · exact ⟨Config.driver n, s.schedule, .free (n + 1), he.symm.trans h⟩

/-! ### The invariant, operation by operation -/

/-- The invariant speaks of memory, the stack and PC alone. -/
theorem Invariant.of_kept {s t : State} (hs : Invariant s) (hpc : t.pc.toNat ≤ 0x10FE)
    (hmem : t.mem = s.mem := by simp) (hfont : t.font = s.font := by simp) (hsp : t.sp = s.sp := by simp)
    (hstack : t.stack = s.stack := by simp) : Invariant t where
  memory := by rw [hmem, hfont]; exact hs.memory
  pointer := hsp ▸ hs.pointer
  entries := hstack ▸ hs.entries
  counter := hpc

theorem Invariant.jump {s : State} (hs : Invariant s) {a : Word} (ha : a.toNat ≤ 0x10FE) : Invariant (s.jump a) :=
  hs.of_kept ha

theorem Invariant.drivenBy {s : State} (hs : Invariant s) (a : List Event) (b : Driver) : Invariant (s.drivenBy a b) :=
  hs.of_kept hs.counter rfl rfl rfl rfl

/-- R57: a store whose whole range was checked keeps memory canonical. -/
theorem Invariant.storeBytes {s : State} (hs : Invariant s) {a : Nat} {bs : List Byte}
    (h : a + bs.length ≤ Config.memSize) : Invariant (s.storeBytes a bs) where
  memory := s.storeBytes_wf bs a h hs.memory
  pointer := hs.pointer
  entries := hs.entries
  counter := hs.counter

/-- A pushed address is one a CALL stands at (R100). -/
theorem Invariant.push {s : State} (hs : Invariant s) {a : Word} (h : s.sp.toNat < 16) (ha : a.toNat ≤ 0x0FFE) :
    Invariant (s.push a h) where
  memory := hs.memory
  pointer := by rw [State.push_sp]; bv_omega
  entries k := by
    by_cases hk : s.sp.toNat = k.val
    · simpa [hk] using ha
    · simpa [hk] using hs.entries k
  counter := hs.counter

theorem Invariant.pop {s : State} (hs : Invariant s) (h : 0 < s.sp.toNat) : Invariant s.pop where
  memory := hs.memory
  pointer := by have := hs.pointer; rw [State.pop_sp]; bv_omega
  entries := hs.entries
  counter := hs.counter

theorem Invariant.top_le {s : State} (hs : Invariant s) (h : 0 < s.sp.toNat ∧ s.sp.toNat ≤ 16) :
    (s.top h).toNat ≤ 0x0FFE :=
  hs.entries ⟨s.sp.toNat - 1, by omega⟩

/-- From an address a word can be fetched at, the next word starts at most at 0x1000 (R27, R92). -/
theorem advance_le {a : Word} (h : a.toNat ≤ 0x0FFE) : (a + 2).toNat ≤ 0x10FE := by bv_omega

/-- An instruction that leaves memory and the stack and moves on by a word. -/
theorem Invariant.of_advance {s t : State} (hs : Invariant s) (hle : s.pc.toNat ≤ 0x0FFE)
    (hpc : t.pc = s.pc + 2 := by simp) (hmem : t.mem = s.mem := by simp) (hfont : t.font = s.font := by simp)
    (hsp : t.sp = s.sp := by simp) (hstack : t.stack = s.stack := by simp) : Invariant t :=
  hs.of_kept (hpc ▸ advance_le hle) hmem hfont hsp hstack

theorem Invariant.skipIf {s : State} (hs : Invariant s) (hpc : s.pc.toNat ≤ 0x0FFE) (c : Bool) :
    Invariant (s.skipIf c) := by
  rw [State.skipIf_eq]
  refine hs.jump ?_
  split
  · bv_omega
  · exact advance_le hpc

/-- The highest target of all: 0x0FFF + 0xFF (R27, R103). -/
theorem jpV0_target_le (nnn : Addr) (b : Byte) : (zextAddr nnn + zextByte b).toNat ≤ 0x10FE := by
  have hn := nnn.isLt
  have hb := b.isLt
  rw [BitVec.toNat_add, zextAddr_toNat, zextByte_toNat]
  omega

theorem zextAddr_le (nnn : Addr) : (zextAddr nnn).toNat ≤ 0x10FE := by
  have hn := nnn.isLt
  rw [zextAddr_toNat]
  omega

/-! ### The invariant, instruction by instruction, event by event -/

/-- An instruction fetched inside memory keeps the invariant: RET, CALL and the stores by the rules above, a jump by the
bound of its target, and every other one because it moves on from an address a word was fetched at. -/
theorem exec_keeps_invariant {i : Instr} {s t : State} (hs : Invariant s) (hpc : s.pc.toNat ≤ 0x0FFE)
    (h : exec i s = .next t) : Invariant t := by
  cases i with
  | ret _ =>
    obtain ⟨hsp, rfl⟩ := execRet_next_iff.1 h
    exact (hs.pop hsp.1).jump (advance_le (hs.top_le hsp))
  | call nnn =>
    obtain ⟨hsp, rfl⟩ := execCall_next_iff.1 h
    exact (hs.push hsp hpc).jump (zextAddr_le nnn)
  | jp nnn => cases h; exact hs.jump (zextAddr_le nnn)
  | jpV0 nnn => cases h; exact hs.jump (jpV0_target_le nnn _)
  | ldB x =>
    obtain ⟨hr, rfl⟩ := State.checked_next_iff.1 h
    have hin : s.i.toNat + (bcdDigits (s.reg x)).length ≤ Config.memSize :=
      State.add_le_memSize_of_inRange hr (Nat.succ_pos 2)
    exact (hs.storeBytes hin).of_advance hpc
  | ldMemVx x =>
    obtain ⟨hr, rfl⟩ := State.checked_next_iff.1 h
    have hin : s.i.toNat + (s.regsUpTo x).length ≤ Config.memSize := by
      rw [State.regsUpTo_length]
      exact State.add_le_memSize_of_inRange hr (Nat.succ_pos _)
    exact (hs.storeBytes hin).of_advance hpc
  | drw _ _ _ | ldVxMem _ => rw [State.eq_of_checked_next h]; exact hs.of_advance hpc
  | skp _ | sknp _ => obtain ⟨c, rfl⟩ := eq_skipIf_of_skipOnKey_next h; exact hs.skipIf hpc c
  | seImm _ _ | sneImm _ _ | seReg _ _ _ | sneReg _ _ _ => cases h; exact hs.skipIf hpc _
  | ldVxK _ =>
    rcases execLdVxK_next h with ⟨k, rfl⟩ | rfl
    · exact hs.of_advance hpc
    · exact hs
  | _ => cases h; exact hs.of_advance hpc

/-- R39: whatever the parameters, the state after reset meets the invariant. -/
theorem State.afterReset_invariant (s : State) : Invariant s.afterReset where
  memory := rfl
  pointer := Nat.zero_le _
  entries k := by simp [State.afterReset, State.reset]
  counter := show (BitVec.ofNat 16 Config.progBase).toNat ≤ 0x10FE by decide

theorem handle_keeps_invariant {e : Event} {s t : State} (hs : Invariant s) (h : handle e s = .next t) :
    Invariant t := by
  cases e with
  | reset image =>
    obtain ⟨hlen, rfl⟩ := State.boot_next_iff.1 h
    exact s.afterReset_invariant.storeBytes (Nat.add_le_add_left hlen Config.progBase)
  | step =>
    rcases State.stepEvent_next h with hc | ⟨f, rfl⟩
    · obtain ⟨i, hi⟩ := State.exec_of_coreStep_next hc
      exact exec_keeps_invariant hs (State.pc_le_of_coreStep_next hc) hi
    · exact hs.of_kept hs.counter
  | tick => cases h; exact hs.of_kept hs.counter
  | keySet k b => cases h; exact hs.of_kept hs.counter

/-- Settles O17: a step is one event, and whichever it is, it keeps the invariant. -/
theorem stepKeepsInvariant : Obligations.StepKeepsInvariant := by
  intro s t hs h
  obtain ⟨e, a, b, he⟩ := exists_handle_of_step_next h
  exact handle_keeps_invariant (hs.drivenBy a b) he

/-- Settles O18: the reset state is its own reset. -/
theorem resetMeetsInvariant : Obligations.ResetMeetsInvariant := State.reset.afterReset_invariant

/-! ### Frames: an update is inside the frame that lists the part it writes -/

section
variable {L : List Part} {s t : State}

@[simp] theorem KeepsAllBut.refl (L : List Part) (s : State) : KeepsAllBut L s s := by
  intro p _
  cases p with
  | params => exact ⟨rfl, rfl⟩
  | v | stack | keys | mem => exact fun _ => rfl
  | fb => exact fun _ _ => rfl
  | _ => exact rfl

theorem keepsAllBut_with_v (hL : .v ∈ L) (w : Vector Byte 16) :
    KeepsAllBut L s { t with v := w } ↔ KeepsAllBut L s t :=
  forall₂_congr fun p hp => by
    cases p with
    | v => exact absurd hL hp
    | _ => exact Iff.rfl

@[simp] theorem keepsAllBut_setReg (hL : .v ∈ L) (x : Nibble) (b : Byte) :
    KeepsAllBut L s (t.setReg x b) ↔ KeepsAllBut L s t := keepsAllBut_with_v hL _

@[simp] theorem keepsAllBut_setFlag (hL : .v ∈ L) (c : Bool) : KeepsAllBut L s (t.setFlag c) ↔ KeepsAllBut L s t :=
  keepsAllBut_setReg hL _ _

@[simp] theorem keepsAllBut_setRegFlag (hL : .v ∈ L) (x : Nibble) (b : Byte) (c : Bool) :
    KeepsAllBut L s (t.setRegFlag x b c) ↔ KeepsAllBut L s t :=
  (keepsAllBut_setFlag hL c).trans (keepsAllBut_setReg hL x b)

@[simp] theorem keepsAllBut_loadRegs (hL : .v ∈ L) (x : Nibble) :
    KeepsAllBut L s (t.loadRegs x) ↔ KeepsAllBut L s t := keepsAllBut_with_v hL _

@[simp] theorem keepsAllBut_setI (hL : .i ∈ L) (a : Word) : KeepsAllBut L s (t.setI a) ↔ KeepsAllBut L s t :=
  forall₂_congr fun p hp => by
    cases p with
    | i => exact absurd hL hp
    | _ => exact Iff.rfl

@[simp] theorem keepsAllBut_bumpI (hL : .i ∈ L) (x : Nibble) : KeepsAllBut L s (t.bumpI x) ↔ KeepsAllBut L s t :=
  keepsAllBut_setI hL _

@[simp] theorem keepsAllBut_jump (hL : .pc ∈ L) (a : Word) : KeepsAllBut L s (t.jump a) ↔ KeepsAllBut L s t :=
  forall₂_congr fun p hp => by
    cases p with
    | pc => exact absurd hL hp
    | _ => exact Iff.rfl

@[simp] theorem keepsAllBut_advance (hL : .pc ∈ L) : KeepsAllBut L s t.advance ↔ KeepsAllBut L s t :=
  keepsAllBut_jump hL _

@[simp] theorem keepsAllBut_skipIf (hL : .pc ∈ L) (c : Bool) : KeepsAllBut L s (t.skipIf c) ↔ KeepsAllBut L s t := by
  rw [State.skipIf_eq, keepsAllBut_jump hL]

@[simp] theorem keepsAllBut_setDt (hL : .dt ∈ L) (b : Byte) : KeepsAllBut L s (t.setDt b) ↔ KeepsAllBut L s t :=
  forall₂_congr fun p hp => by
    cases p with
    | dt => exact absurd hL hp
    | _ => exact Iff.rfl

@[simp] theorem keepsAllBut_setSt (hL : .st ∈ L) (b : Byte) : KeepsAllBut L s (t.setSt b) ↔ KeepsAllBut L s t :=
  forall₂_congr fun p hp => by
    cases p with
    | st => exact absurd hL hp
    | _ => exact Iff.rfl

@[simp] theorem keepsAllBut_tick (hdt : .dt ∈ L) (hst : .st ∈ L) : KeepsAllBut L s t.tick ↔ KeepsAllBut L s t :=
  (keepsAllBut_setSt hst _).trans (keepsAllBut_setDt hdt _)

@[simp] theorem keepsAllBut_setKey (hL : .keys ∈ L) (k : Nibble) (b : Bool) :
    KeepsAllBut L s (t.setKey k b) ↔ KeepsAllBut L s t :=
  forall₂_congr fun p hp => by
    cases p with
    | keys => exact absurd hL hp
    | _ => exact Iff.rfl

@[simp] theorem keepsAllBut_setFb (hL : .fb ∈ L) (fb : Pixels) : KeepsAllBut L s (t.setFb fb) ↔ KeepsAllBut L s t :=
  forall₂_congr fun p hp => by
    cases p with
    | fb => exact absurd hL hp
    | _ => exact Iff.rfl

@[simp] theorem keepsAllBut_drawn (hL : .draws ∈ L) : KeepsAllBut L s t.drawn ↔ KeepsAllBut L s t :=
  forall₂_congr fun p hp => by
    cases p with
    | draws => exact absurd hL hp
    | _ => exact Iff.rfl

@[simp] theorem keepsAllBut_storeBytes (hL : .mem ∈ L) (a : Nat) (bs : List Byte) :
    KeepsAllBut L s (t.storeBytes a bs) ↔ KeepsAllBut L s t :=
  forall₂_congr fun p hp => by
    cases p with
    | mem => exact absurd hL hp
    | _ => exact Iff.rfl

@[simp] theorem keepsAllBut_pop (hL : .sp ∈ L) : KeepsAllBut L s t.pop ↔ KeepsAllBut L s t :=
  forall₂_congr fun p hp => by
    cases p with
    | sp => exact absurd hL hp
    | _ => exact Iff.rfl

@[simp] theorem keepsAllBut_push (hsp : .sp ∈ L) (hstack : .stack ∈ L) (a : Word) (h : t.sp.toNat < 16) :
    KeepsAllBut L s (t.push a h) ↔ KeepsAllBut L s t :=
  forall₂_congr fun p hp => by
    cases p with
    | sp => exact absurd hsp hp
    | stack => exact absurd hstack hp
    | _ => exact Iff.rfl

end

/-! ### What an instruction writes -/

@[simp] theorem State.skipIf_reg (s : State) (c : Bool) (r : Nibble) : (s.skipIf c).reg r = s.reg r := by
  rw [State.skipIf_eq, State.jump_reg]

/-- Settles O51: each instruction that goes on ends in a chain of updates, every one of a part the tables name for it,
and of its registers only those named. -/
theorem onlyNamedStateIsWritten : Obligations.OnlyNamedStateIsWritten := by
  intro i s t h
  cases i with
  | ret _ => obtain ⟨_, rfl⟩ := execRet_next_iff.1 h; simp [Writes]
  | call _ => obtain ⟨_, rfl⟩ := execCall_next_iff.1 h; simp [Writes]
  | drw _ _ _ | ldB _ | ldMemVx _ | ldVxMem _ =>
    rw [State.eq_of_checked_next h]
    simp +contextual [Writes, WritesReg]
  | skp _ | sknp _ => obtain ⟨_, rfl⟩ := eq_skipIf_of_skipOnKey_next h; simp [Writes]
  | ldVxK _ => rcases execLdVxK_next h with ⟨_, rfl⟩ | rfl <;> simp +contextual [Writes, WritesReg]
  | _ => cases h; simp +contextual [Writes, WritesReg]

/-! ### What an instruction does not read -/

/-- The same machine with another SP, another stack and another ST. -/
def State.apart (s : State) (sp : Word) (stack : Vector Word 16) (st : Byte) : State :=
  { s with sp := sp, stack := stack, st := st }

theorem State.checked_apart (s u : State) (len : Nat) (sp : Word) (stack : Vector Word 16) (st : Byte) :
    mapNext (fun t => t.apart sp stack st) (s.checked len u) =
      (s.apart sp stack st).checked len (u.apart sp stack st) := by
  have h : (s.apart sp stack st).inRange len = s.inRange len := rfl
  unfold State.checked
  rw [h]
  split <;> rfl

theorem State.skipIf_apart (s : State) (c : Bool) (sp : Word) (stack : Vector Word 16) (st : Byte) :
    (s.skipIf c).apart sp stack st = (s.apart sp stack st).skipIf c := by
  simp only [State.skipIf_eq]
  rfl

theorem skipOnKey_apart (x : Nibble) (wanted : Bool) (s : State) (sp : Word) (stack : Vector Word 16) (st : Byte) :
    mapNext (fun t => t.apart sp stack st) (skipOnKey x wanted s) = skipOnKey x wanted (s.apart sp stack st) := by
  have h : (s.apart sp stack st).reg x = s.reg x := rfl
  unfold skipOnKey
  rw [h]
  split
  · exact congrArg _ (s.skipIf_apart _ sp stack st)
  · rfl

/-- An instruction that writes neither SP nor ST reads neither of them, nor the stack. -/
theorem exec_apart {i : Instr} (hsp : .sp ∉ Writes i) (hst : .st ∉ Writes i) (s : State) (sp : Word)
    (stack : Vector Word 16) (st : Byte) :
    mapNext (fun t => t.apart sp stack st) (exec i s) = exec i (s.apart sp stack st) := by
  cases i with
  | ret _ | call _ => exact absurd (List.mem_cons_self ..) hsp
  | ldStVx _ => exact absurd (List.mem_cons_self ..) hst
  | drw _ _ _ | ldB _ | ldMemVx _ | ldVxMem _ => exact s.checked_apart _ _ sp stack st
  | skp _ | sknp _ => exact skipOnKey_apart _ _ s sp stack st
  | seImm _ _ | sneImm _ _ | seReg _ _ _ | sneReg _ _ _ => exact congrArg _ (s.skipIf_apart _ sp stack st)
  | ldVxK x =>
    have h : (s.apart sp stack st).firstKey = s.firstKey := rfl
    simp only [exec, execLdVxK, h]
    split <;> rfl
  | _ => rfl

/-- Such an instruction leaves all three as they were, and does the same whatever they hold. -/
theorem exec_next_apart {i : Instr} (hsp : .sp ∉ Writes i) (hst : .st ∉ Writes i) {s t : State}
    (h : exec i s = .next t) :
    (t.sp = s.sp ∧ t.stack = s.stack ∧ t.st = s.st) ∧
    ∀ sp stack st, exec i (s.apart sp stack st) = .next (t.apart sp stack st) := by
  have hall : ∀ sp stack st, exec i (s.apart sp stack st) = .next (t.apart sp stack st) := by
    intro sp stack st
    rw [← exec_apart hsp hst, h, mapNext]
  have ht : t = t.apart s.sp s.stack s.st := Host.Outcome.next.inj (h.symm.trans (hall s.sp s.stack s.st))
  exact ⟨by rw [ht]; exact ⟨rfl, rfl, rfl⟩, hall⟩

/-- Settles O40: LD ST writes ST without reading it, RET and CALL read the stack alone, and every other instruction
leaves ST apart. -/
theorem soundTimerIsNeverRead : Obligations.SoundTimerIsNeverRead := by
  intro i s t b h
  cases i with
  | ldStVx x => cases h; exact ⟨s.reg x, rfl⟩
  | ret _ => obtain ⟨hsp, rfl⟩ := execRet_next_iff.1 h; exact ⟨b, execRet_next_iff.2 ⟨hsp, rfl⟩⟩
  | call _ => obtain ⟨hsp, rfl⟩ := execCall_next_iff.1 h; exact ⟨b, execCall_next_iff.2 ⟨hsp, rfl⟩⟩
  | _ =>
    obtain ⟨⟨hsp, hstack, -⟩, hall⟩ := exec_next_apart (by simp [Writes]) (by simp [Writes]) h
    refine ⟨b, (hall s.sp s.stack b).trans ?_⟩
    rw [← hsp, ← hstack]
    rfl

/-- RET reads the one entry below SP. -/
theorem execRet_with_stack {s t : State} {stack : Vector Word 16}
    (hagree : ∀ k : Fin 16, k.val < s.sp.toNat → stack[k] = s.stack[k]) (h : execRet s = .next t) :
    execRet { s with stack := stack } = .next { t with stack := stack } ∧
      t.stack = s.stack ∧ t.sp.toNat ≤ s.sp.toNat := by
  obtain ⟨hsp, rfl⟩ := execRet_next_iff.1 h
  have htop : State.top { s with stack := stack } hsp = s.top hsp :=
    hagree ⟨s.sp.toNat - 1, by omega⟩ (by show s.sp.toNat - 1 < s.sp.toNat; omega)
  refine ⟨execRet_next_iff.2 ⟨hsp, by rw [htop]; rfl⟩, rfl, ?_⟩
  rw [State.jump_sp, State.pop_sp]
  bv_omega

/-- Stacks that agree below SP agree below the new SP after the same push. -/
theorem push_agrees {s : State} {stack : Vector Word 16} (a : Word) (hsp : s.sp.toNat < 16)
    (hagree : ∀ k : Fin 16, k.val < s.sp.toNat → stack[k] = s.stack[k]) (k : Fin 16)
    (hk : k.val < (s.push a hsp).sp.toNat) :
    (stack.set s.sp.toNat a)[k] = (s.push a hsp).stack[k] := by
  rw [State.push_sp] at hk
  rw [State.push_stack]
  by_cases heq : s.sp.toNat = k.val
  · simp [heq]
  · have hlt : k.val < s.sp.toNat := by bv_omega
    simpa [heq] using hagree k hlt

/-- Settles O52: RET reads the entry below SP and CALL overwrites the one at SP, and every other instruction leaves
SP and the stack apart. -/
theorem poppedEntriesUnobservable : Obligations.PoppedEntriesUnobservable := by
  intro i s t stack hagree h
  cases i with
  | ret _ =>
    obtain ⟨hret, hstack, hle⟩ := execRet_with_stack hagree h
    exact ⟨stack, hret, fun k hk => hstack ▸ hagree k (Nat.lt_of_lt_of_le hk hle)⟩
  | call nnn =>
    obtain ⟨hsp, rfl⟩ := execCall_next_iff.1 h
    exact ⟨stack.set s.sp.toNat s.pc, execCall_next_iff.2 ⟨hsp, rfl⟩, push_agrees s.pc hsp hagree⟩
  | ldStVx _ => cases h; exact ⟨stack, rfl, hagree⟩
  | _ =>
    obtain ⟨⟨hsp, hstack, hst⟩, hall⟩ := exec_next_apart (by simp [Writes]) (by simp [Writes]) h
    refine ⟨stack, (hall s.sp stack s.st).trans ?_, ?_⟩
    · rw [← hsp, ← hst]; rfl
    · rw [hsp, hstack]; exact hagree

/-! ### Ticks, keys, reset and the illegal stack pointer -/

theorem tickDown_toNat (b : Byte) : (tickDown b).toNat = b.toNat - 1 := by
  unfold tickDown
  split
  · next h => subst h; rfl
  · next h => bv_omega

/-- Settles O11: the two timers by `tickDown_toNat`, the frame by `keepsAllBut_tick`. -/
theorem tickCountsDown : Obligations.TickCountsDown :=
  fun s => ⟨s.tick, rfl, tickDown_toNat s.dt, tickDown_toNat s.st, by simp⟩

/-- Settles O12: the keys by `key_setKey`, the frame by `keepsAllBut_setKey`. -/
theorem keySetSetsOneKey : Obligations.KeySetSetsOneKey :=
  fun s k b => ⟨s.setKey k b, rfl, by simp, fun j hj => by simp [hj], by simp⟩

/-- Memory after reset lists nothing, so every byte reads as FONT or zero (R38). -/
theorem reset_readMem (a : Nat) : State.reset.readMem a = Memory.unlisted State.reset.font a := rfl

/-- Settles O13: every field of `State.reset`, read at one place. -/
theorem resetState : Obligations.ResetState := by
  refine ⟨fun r => ?_, rfl, rfl, rfl, fun k => ?_, rfl, rfl, fun k => ?_, fun x y => Pixels.get_dark x y, fun a => ?_,
    fun a hlo _ => ?_⟩
  · simp [State.reg, State.reset]
  · simp [State.reset]
  · simp [State.key, State.reset]
  · rw [reset_readMem, Memory.unlisted, dif_pos a.isLt]; rfl
  · rw [reset_readMem, Memory.unlisted, dif_neg (Nat.not_lt.2 hlo)]

/-- Settles O23: SP is neither the 16 of an overflow nor the 0 of an underflow, and no entry is in use at it. -/
theorem illegalStackPointerStops : Obligations.IllegalStackPointerStops := by
  intro nnn z s h
  have h16 : s.sp ≠ 16 := by bv_omega
  have h0 : s.sp ≠ 0 := by bv_omega
  constructor
  · rw [exec, execCall, if_neg h16, dif_neg (by omega), raise]
  · rw [exec, execRet, if_neg h0, dif_neg (by omega), raise]

end Sys2Proof.Machine

/-!
SUPPORT. Memory as one space for data and code (spec/20_memory.md R63): what a register dump leaves in memory, that
memory and FONT decide every read, and which word a `Step` runs.
-/

namespace Sys2Proof.Machine

open Sys2Proof

/-- R50: a word is its two bytes, high byte first. -/
theorem wordOfBytes_toNat (hi lo : Byte) : (wordOfBytes hi lo).toNat = 256 * hi.toNat + lo.toNat := by
  rw [wordOfBytes, BitVec.toNat_append, ← Nat.shiftLeft_add_eq_or_of_lt lo.isLt, Nat.shiftLeft_eq, Nat.mul_comm]

/-- R91: where a word can be fetched, a `Step` of the core runs the two bytes at PC. -/
theorem State.coreStep_eq_exec {s : State} {op : Word} (hpc : s.pc.toNat ≤ 0x0FFE)
    (hop : op.toNat = 256 * (s.readMem s.pc.toNat).toNat + (s.readMem (s.pc.toNat + 1)).toNat) :
    s.coreStep = exec (decodeWord op) s := by
  have hword : op = wordOfBytes (s.readMem s.pc.toNat) (s.readMem (s.pc.toNat + 1)) :=
    BitVec.eq_of_toNat_eq (hop.trans (wordOfBytes_toNat _ _).symm)
  rcases s.fetch_cases with ⟨-, hf⟩ | ⟨hout, -⟩
  · rw [State.coreStep, hf, hword]
  · omega

/-- Two states with the same memory and FONT read the same everywhere. -/
theorem State.readMem_congr {s t : State} (hmem : s.mem = t.mem) (hfont : s.font = t.font) (a : Nat) :
    s.readMem a = t.readMem a := by
  rw [State.readMem, State.readMem, hmem, hfont]

/-- R57: a register dump that goes on ends inside memory. -/
theorem ldMemVx_inRange {x : Nibble} {s t : State} (h : exec (.ldMemVx x) s = .next t) :
    s.i.toNat + x.toNat ≤ 0xFFF := by
  obtain ⟨hr, -⟩ := State.checked_next_iff.1 h
  have := State.add_le_memSize_of_inRange hr (Nat.succ_pos _)
  rw [Config.memSize] at this
  omega

/-- R169: a register dump leaves register `r` at the address I + `r`. -/
theorem ldMemVx_readMem {x r : Nibble} {s t : State} (h : exec (.ldMemVx x) s = .next t) (hr : r.toNat ≤ x.toNat) :
    t.readMem (s.i.toNat + r.toNat) = s.reg r := by
  have hlen : r.toNat < (s.regsUpTo x).length := by rw [State.regsUpTo_length]; omega
  obtain ⟨-, rfl⟩ := State.checked_next_iff.1 h
  simp [State.readMem_storeBytes, hlen, State.regsUpTo_getElem]

/-- Settles O44: the machine reads what the dump left at PC and PC + 1, and both places are inside memory. -/
theorem storedCodeIsFetched : Obligations.StoredCodeIsFetched := by
  intro x r r' s t u op h hnext hx hop hmem hfont hpc
  have hin := ldMemVx_inRange h
  have hread := State.readMem_congr hmem hfont
  have hhi : u.readMem u.pc.toNat = s.reg r := by rw [hread, hpc, ldMemVx_readMem h (by omega)]
  have hlo : u.readMem (u.pc.toNat + 1) = s.reg r' := by
    rw [hread, hpc, Nat.add_assoc, ← hnext, ldMemVx_readMem h hx]
  exact State.coreStep_eq_exec (by omega) (by rw [hhi, hlo, hop])

end Sys2Proof.Machine

/-!
SUPPORT. The decoder and the encoder are inverse (spec/30_encoding.md R71, R72, R74, R75), which words are UNKNOWN (R77),
and the bits of a word that neither the decoder nor a meaning reads (R76, spec/44_alu.md R137, R139).
-/

namespace Sys2Proof.Machine

open Sys2Proof

/-! ### The fields as numbers, and under a mask (R71) -/

theorem fieldC_toNat (op : Word) : (fieldC op).toNat = op.toNat / 4096 := by
  rw [fieldC, BitVec.extractLsb'_toNat, Nat.shiftRight_eq_div_pow]
  have := op.isLt
  omega

theorem fieldKK_toNat (op : Word) : (fieldKK op).toNat = op.toNat % 256 := by
  rw [fieldKK, BitVec.extractLsb'_toNat, Nat.shiftRight_zero]

theorem fieldN_toNat (op : Word) : (fieldN op).toNat = op.toNat % 16 := by
  rw [fieldN, BitVec.extractLsb'_toNat, Nat.shiftRight_zero]

/-- A field that the mask keeps whole is that field of the masked word. -/
theorem extractLsb'_eq_of_and_eq {op mask fixed : Word} (h : op &&& mask = fixed) {start len : Nat}
    (hmask : mask.extractLsb' start len = BitVec.allOnes len) :
    op.extractLsb' start len = fixed.extractLsb' start len := by
  rw [← h, BitVec.extractLsb'_and, hmask, BitVec.and_allOnes]

/-- Words equal under a mask agree in every field that the mask keeps whole. -/
theorem extractLsb'_congr_of_and_eq {op op' mask : Word} (h : op' &&& mask = op &&& mask) {start len : Nat}
    (hmask : mask.extractLsb' start len = BitVec.allOnes len) :
    op'.extractLsb' start len = op.extractLsb' start len :=
  (extractLsb'_eq_of_and_eq h hmask).trans (extractLsb'_eq_of_and_eq rfl hmask).symm

/-! ### Encoding what a word decodes to gives the word (R74, R75) -/

section
variable {op : Word} {c : Nat} (hc : (fieldC op).toNat = c)
include hc

theorem formNNN_of_category : formNNN (BitVec.ofNat 4 c) (fieldNNN op) = op := by
  rw [← hc, BitVec.ofNat_toNat, BitVec.setWidth_eq, formNNN_fields]

theorem formXKK_of_category : formXKK (BitVec.ofNat 4 c) (fieldX op) (fieldKK op) = op := by
  rw [← hc, BitVec.ofNat_toNat, BitVec.setWidth_eq, formXKK_fields]

theorem formXYN_of_category : formXYN (BitVec.ofNat 4 c) (fieldX op) (fieldY op) (fieldN op) = op := by
  rw [← hc, BitVec.ofNat_toNat, BitVec.setWidth_eq, formXYN_fields]

/-- Where the low byte selects the row, the row's low byte stands for the field. -/
theorem formXKK_of_row {kk : Byte} (hkk : fieldKK op = kk) : formXKK (BitVec.ofNat 4 c) (fieldX op) kk = op :=
  hkk ▸ formXKK_of_category hc

/-- Where the low nibble selects the row, the row's low nibble stands for the field. -/
theorem formXYN_of_row {n : Nat} (hn : (fieldN op).toNat = n) :
    formXYN (BitVec.ofNat 4 c) (fieldX op) (fieldY op) (BitVec.ofNat 4 n) = op := by
  rw [← hn, BitVec.ofNat_toNat, BitVec.setWidth_eq, formXYN_of_category hc]

end

theorem encode_decode0 {op : Word} (hc : (fieldC op).toNat = 0x0) : encode (decode0 op) = op := by
  unfold decode0
  split_ifs with hkk hkk
  · exact formXKK_of_row hc hkk
  · exact formXKK_of_row hc hkk
  · rfl

theorem encode_decode8 {op : Word} (hc : (fieldC op).toNat = 0x8) : encode (decode8 op) = op := by
  unfold decode8
  split
  case h_10 => rfl -- UNKNOWN, the catch-all row
  all_goals exact formXYN_of_row hc ‹_›

theorem encode_decodeE {op : Word} (hc : (fieldC op).toNat = 0xE) : encode (decodeE op) = op := by
  unfold decodeE
  split_ifs with hkk hkk
  · exact formXKK_of_row hc hkk
  · exact formXKK_of_row hc hkk
  · rfl

theorem encode_decodeF {op : Word} (hc : (fieldC op).toNat = 0xF) : encode (decodeF op) = op := by
  unfold decodeF
  split_ifs
  case neg => rfl -- UNKNOWN, the catch-all row
  all_goals exact formXKK_of_row hc ‹_›

/-- No bit of a word is lost: category by category, 0x0 to 0xF, the fields are put together by the row's format. -/
theorem encode_decodeWord (op : Word) : encode (decodeWord op) = op := by
  have := (fieldC op).isLt
  interval_cases hc : (fieldC op).toNat <;> simp only [decodeWord, hc]
  · exact encode_decode0 hc
  · exact formNNN_of_category hc
  · exact formNNN_of_category hc
  · exact formXKK_of_category hc
  · exact formXKK_of_category hc
  · exact formXYN_of_category hc
  · exact formXKK_of_category hc
  · exact formXKK_of_category hc
  · exact encode_decode8 hc
  · exact formXYN_of_category hc
  · exact formNNN_of_category hc
  · exact formNNN_of_category hc
  · exact formXKK_of_category hc
  · exact formXYN_of_category hc
  · exact encode_decodeE hc
  · exact encode_decodeF hc

/-! ### The words that decode to UNKNOWN (R77) -/

/-- An UNKNOWN carries the word it was decoded from, since it encodes to what it carries. -/
theorem eq_of_decodeWord_eq_unknown {op u : Word} (h : decodeWord op = .unknown u) : u = op := by
  simpa [h, encode] using encode_decodeWord op

theorem decode0_eq_unknown_iff (op : Word) : decode0 op = .unknown op ↔ fieldKK op ∉ [0xE0#8, 0xEE#8] := by
  unfold decode0
  split_ifs <;> simp [*]

theorem decode8_eq_unknown_iff (op : Word) :
    decode8 op = .unknown op ↔ fieldN op ∈ [0x8#4, 0x9#4, 0xA#4, 0xB#4, 0xC#4, 0xD#4, 0xF#4] := by
  have := (fieldN op).isLt
  interval_cases hn : (fieldN op).toNat <;> simp [decode8, ← BitVec.toNat_inj, hn]

theorem decodeE_eq_unknown_iff (op : Word) : decodeE op = .unknown op ↔ fieldKK op ∉ [0x9E#8, 0xA1#8] := by
  unfold decodeE
  split_ifs <;> simp [*]

theorem decodeF_eq_unknown_iff (op : Word) : decodeF op = .unknown op ↔
    fieldKK op ∉ [0x07#8, 0x0A#8, 0x15#8, 0x18#8, 0x1E#8, 0x29#8, 0x33#8, 0x55#8, 0x65#8] := by
  unfold decodeF
  split_ifs <;> simp [*]

/-! `unknownWord` cuts its fields itself; these are the decoder's fields. -/

theorem extractLsb'_12_4_eq_fieldC (op : Word) : op.extractLsb' 12 4 = fieldC op := rfl

theorem extractLsb'_0_4_eq_fieldN (op : Word) : op.extractLsb' 0 4 = fieldN op := rfl

theorem extractLsb'_0_8_eq_fieldKK (op : Word) : op.extractLsb' 0 8 = fieldKK op := rfl

/-- The decoder's catch-all is exactly the check of well-formedness. -/
theorem decodeWord_eq_unknown_iff (op : Word) : decodeWord op = .unknown op ↔ unknownWord op = true := by
  have := (fieldC op).isLt
  interval_cases hc : (fieldC op).toNat <;>
    simp [decodeWord, unknownWord, extractLsb'_12_4_eq_fieldC, extractLsb'_0_4_eq_fieldN, extractLsb'_0_8_eq_fieldKK,
      hc, decode0_eq_unknown_iff, decode8_eq_unknown_iff, decodeE_eq_unknown_iff, decodeF_eq_unknown_iff]

/-- The check of well-formedness is the table of R77, on the word as a number. -/
theorem unknownWord_iff (op : Word) : unknownWord op = true ↔
    (op.toNat / 4096 = 0x0 ∧ op.toNat % 256 ∉ [0xE0, 0xEE]) ∨
    (op.toNat / 4096 = 0x8 ∧ op.toNat % 16 ∈ [0x8, 0x9, 0xA, 0xB, 0xC, 0xD, 0xF]) ∨
    (op.toNat / 4096 = 0xE ∧ op.toNat % 256 ∉ [0x9E, 0xA1]) ∨
    (op.toNat / 4096 = 0xF ∧ op.toNat % 256 ∉ [0x07, 0x0A, 0x15, 0x18, 0x1E, 0x29, 0x33, 0x55, 0x65]) := by
  simp only [← fieldC_toNat, ← fieldKK_toNat, ← fieldN_toNat]
  have := (fieldC op).isLt
  interval_cases hc : (fieldC op).toNat <;>
    simp [unknownWord, extractLsb'_12_4_eq_fieldC, extractLsb'_0_4_eq_fieldN, extractLsb'_0_8_eq_fieldKK, hc,
      ← BitVec.toNat_inj]

theorem decodeWord_wf (op : Word) : (decodeWord op).wf = true := by
  cases h : decodeWord op with
  | unknown u =>
    obtain rfl := eq_of_decodeWord_eq_unknown h
    exact (decodeWord_eq_unknown_iff u).1 h
  | _ => rfl

/-! ### Decoding the word of an instruction gives the instruction (R72, R74) -/

/-- Each format gives every field back, and the category with its row's low byte or nibble selects the variant; an UNKNOWN
is its own word. -/
theorem decodeWord_encode {i : Instr} (h : i.wf = true) : decodeWord (encode i) = i := by
  cases i with
  | unknown op => exact (decodeWord_eq_unknown_iff op).2 h
  | cls | ret => simp [encode, decodeWord, decode0]
  | ldReg | or | and | xor | addReg | sub | shr | subn | shl => simp [encode, decodeWord, decode8]
  | skp | sknp => simp [encode, decodeWord, decodeE]
  | ldVxDt | ldVxK | ldDtVx | ldStVx | addI | ldF | ldB | ldMemVx | ldVxMem => simp [encode, decodeWord, decodeF]
  | jp | call | ldI | jpV0 => simp [encode, decodeWord]
  | seImm | sneImm | ldImm | addImm | rnd => simp [encode, decodeWord]
  | seReg | sneReg | drw => simp [encode, decodeWord]

/-! ### Words that agree in the fields that are read do the same (R76, R137, R139) -/

section
variable {op op' : Word} (hC : fieldC op' = fieldC op)
include hC

/-- R76 (a): in category 0x0 only the low byte is read. -/
theorem exec_category0_congr (hc : (fieldC op).toNat = 0x0) (hKK : fieldKK op' = fieldKK op) (s : State) :
    exec (decodeWord op') s = exec (decodeWord op) s := by
  simp only [decodeWord, decode0, hC, hc, hKK]
  split_ifs <;> rfl

/-- R76 (b): in categories 0x5 and 0x9 only the two registers are read. -/
theorem exec_registerSkip_congr (hc : (fieldC op).toNat = 0x5 ∨ (fieldC op).toNat = 0x9)
    (hX : fieldX op' = fieldX op) (hY : fieldY op' = fieldY op) (s : State) :
    exec (decodeWord op') s = exec (decodeWord op) s := by
  rcases hc with hc | hc <;> simp only [decodeWord, hC, hc, hX, hY, exec]

/-- R137, R139: a shift reads Vx alone. -/
theorem exec_shift_congr (hc : fieldC op = 0x8#4) (hn : fieldN op = 0x6#4 ∨ fieldN op = 0xE#4)
    (hX : fieldX op' = fieldX op) (hN : fieldN op' = fieldN op) (s : State) :
    exec (decodeWord op') s = exec (decodeWord op) s := by
  rcases hn with hn | hn <;> simp [decodeWord, decode8, hC, hc, hN, hn, hX, exec]

end

/-! ### The obligations of spec/30_encoding.md -/

/-- Settles O1: the two bytes make the word again, and decoding the word of an instruction gives the instruction. -/
theorem decodeEncodeRoundTrip : Obligations.DecodeEncodeRoundTrip := by
  intro i rest h
  rw [encodeBytes, List.cons_append, List.cons_append, List.nil_append, decode_pair, wordOfBytes_bytes,
    decodeWord_encode h]

/-- Settles O2, category by category. -/
theorem encodeDecodeRoundTrip : Obligations.EncodeDecodeRoundTrip :=
  fun op => ⟨decodeWord_wf op, encode_decodeWord op⟩

/-- Settles O3: the decoder's catch-all is the check of well-formedness, and that is the table. -/
theorem unknownWordsAreTheTable : Obligations.UnknownWordsAreTheTable :=
  fun op => ⟨(decodeWord_eq_unknown_iff op).trans (unknownWord_iff op), fun _ => eq_of_decodeWord_eq_unknown⟩

/-- Settles O5: each mask keeps whole the fields that the instructions of its words read. -/
theorem unexaminedBitsDoNothing : Obligations.UnexaminedBitsDoNothing := by
  rintro op op' s (⟨hc, h⟩ | ⟨hc, h⟩ | ⟨hrow, h⟩)
  · have hC : fieldC op' = fieldC op := extractLsb'_congr_of_and_eq h rfl
    have hKK : fieldKK op' = fieldKK op := extractLsb'_congr_of_and_eq h rfl
    exact exec_category0_congr hC ((fieldC_toNat op).trans hc) hKK s
  · have hC : fieldC op' = fieldC op := extractLsb'_congr_of_and_eq h rfl
    have hX : fieldX op' = fieldX op := extractLsb'_congr_of_and_eq h rfl
    have hY : fieldY op' = fieldY op := extractLsb'_congr_of_and_eq h rfl
    rw [← fieldC_toNat] at hc
    exact exec_registerSkip_congr hC hc hX hY s
  · have hC : fieldC op' = fieldC op := extractLsb'_congr_of_and_eq h rfl
    have hX : fieldX op' = fieldX op := extractLsb'_congr_of_and_eq h rfl
    have hN : fieldN op' = fieldN op := extractLsb'_congr_of_and_eq h rfl
    have hc : fieldC op = 0x8#4 :=
      hrow.elim (extractLsb'_eq_of_and_eq · rfl) (extractLsb'_eq_of_and_eq · rfl)
    have hn : fieldN op = fieldN 0x8006#16 ∨ fieldN op = fieldN 0x800E#16 :=
      hrow.imp (extractLsb'_eq_of_and_eq · rfl) (extractLsb'_eq_of_and_eq · rfl)
    exact exec_shift_congr hC hc hn hX hN s

end Sys2Proof.Machine

/-!
SUPPORT. The step (spec/40_step_and_pc.md): what a `Step` fetches and runs (R90, R91), the four ways an instruction moves
PC (R92), UNKNOWN (R94), and how LD Vx, K waits for a key (R95).
-/

namespace Sys2Proof.Machine

open Sys2Proof

/-! ### A step is the execution of the fetched word (R90, R91) -/

theorem State.fetch_of_le {s : State} (hpc : s.pc.toNat ≤ 0x0FFE) :
    s.fetch = .ok (wordOfBytes (s.readMem s.pc.toNat) (s.readMem (s.pc.toNat + 1))) := by
  rcases s.fetch_cases with ⟨-, hf⟩ | ⟨hout, -⟩
  · exact hf
  · omega

/-- R91: the info of a fault past the end of memory. -/
theorem lowestOut_eq_ofNat (a : Word) : lowestOut a = BitVec.ofNat 16 (max a.toNat 0x1000) := by
  rw [← lowestOut_toNat, BitVec.ofNat_toNat, BitVec.setWidth_eq]

/-- With the bytes of a well-formed instruction at PC, a `Step` of the core executes it. -/
theorem State.coreStep_of_decode {s : State} {i : Instr} {rest rest' : List Byte} (hpc : s.pc.toNat ≤ 0x0FFE)
    (hdec : decode (s.readMem s.pc.toNat :: s.readMem (s.pc.toNat + 1) :: rest) = .ok (i, rest')) :
    s.coreStep = exec i s := by
  rw [decode_pair] at hdec
  cases hdec
  rw [State.coreStep, State.fetch_of_le hpc]

/-- A step whose event is a `Step` issued by the schedule, or by a steady driver with none left there. -/
theorem step_eq_stepEvent {s s' : State} (h : s.schedule = [] ∧ s.driver = .steady ∧ s' = s ∨
    ∃ later, s.schedule = .step :: later ∧ s' = { s with schedule := later }) : step s = s'.stepEvent := by
  rcases h with ⟨hs, hd, rfl⟩ | ⟨later, hs, rfl⟩
  · exact (nextEventIsTaken s').2.1 hs hd
  · exact (nextEventIsTaken s).1 .step later hs

/-- Settles O10: the two outcomes of a fetch. -/
theorem fetchIsBigEndianOrFaults : Obligations.FetchIsBigEndianOrFaults := by
  refine fun s => ⟨fun hout => ?_, fun op => State.coreStep_eq_exec⟩
  rcases s.fetch_cases with ⟨hpc, -⟩ | ⟨-, hf⟩
  · omega
  · rw [← lowestOut_eq_ofNat, State.coreStep, hf]
    rfl

/-- Settles O6: the step is the end of the event `Step`, given what the decoded instruction answers. -/
theorem stepRunsDecodedInstruction : Obligations.StepRunsDecodedInstruction := by
  intro s s' i rest hnext hpc _ hdec
  have hcore : s'.coreStep = exec i s' := by
    rcases hnext with ⟨-, -, rfl⟩ | ⟨later, -, rfl⟩
    · exact State.coreStep_of_decode hpc hdec
    · exact State.coreStep_of_decode hpc hdec
  have hstep : step s = s'.conclude (exec i s') := by rw [step_eq_stepEvent hnext, State.stepEvent, hcore]
  rw [hstep]
  refine ⟨fun t h => ?_, fun f h hf => ?_, fun f h hf => ?_, fun r h => ?_⟩
  · rw [h, State.conclude]
  · rw [h, State.conclude, if_pos hf, State.recordFault]
  · rw [h, State.conclude, if_neg (by simp [hf])]
  · rw [h, State.conclude]

/-! ### The four ways PC moves (R92) -/

theorem advanced_of_pc {s t : State} (h : t.pc = s.pc + 2) : Advanced s t := by
  rw [Advanced, h, BitVec.toNat_add]
  rfl

theorem skipped_of_pc {s t : State} (h : t.pc = s.pc + 4) : Skipped s t := by
  rw [Skipped, h, BitVec.toNat_add]
  rfl

/-- A skip moves PC by two words if its condition holds, else by one. -/
theorem State.skipIf_moves {c : Bool} {p : Prop} [Decidable p] (s : State) (hc : c = true ↔ p) :
    if p then Skipped s (s.skipIf c) else Advanced s (s.skipIf c) := by
  rw [State.skipIf_eq]
  split
  · next hp => exact skipped_of_pc (by simp [hc.2 hp])
  · next hp => exact advanced_of_pc (by simp [hc, hp])

/-- A key skip that goes on has read the flag of the key Vx names (R116). -/
theorem skipOnKey_next {x k : Nibble} {wanted : Bool} {s t : State} (h : skipOnKey x wanted s = .next t)
    (hk : k.toNat = (s.reg x).toNat) : t = s.skipIf (s.key k == wanted) := by
  have hkey : (s.reg x).setWidth 4 = k := BitVec.eq_of_toNat_eq (by rw [BitVec.toNat_setWidth]; omega)
  rcases skipOnKey_cases x wanted s with ⟨-, e⟩ | ⟨-, e⟩ <;> rw [e] at h <;> cases h
  rw [hkey]

/-- The top of the stack is the entry below SP. -/
theorem State.top_eq {s : State} {k : Fin 16} (hk : s.sp.toNat = k.val + 1) (h : 0 < s.sp.toNat ∧ s.sp.toNat ≤ 16) :
    s.top h = s.stack[k] := by
  simp [State.top, hk]

/-! ### LD Vx, K (R95, R156) -/

theorem execLdVxK_of_some {x k : Nibble} {s : State} (h : s.firstKey = some k) :
    execLdVxK x s = .next ((s.setReg x (k.setWidth 8)).setKey k false).advance := by
  rw [execLdVxK, h]

theorem execLdVxK_of_none {x : Nibble} {s : State} (h : s.firstKey = none) : execLdVxK x s = .next s := by
  rw [execLdVxK, h]

/-- The key found is a pressed one, and only one is pressed. -/
theorem State.firstKey_setKey_true {s : State} (k : Nibble) (h : ∀ j : Nibble, s.key j = false) :
    (s.setKey k true).firstKey = some k := by
  cases hf : (s.setKey k true).firstKey with
  | none => simpa using State.firstKey_none.1 hf k
  | some j => simpa [h] using (State.firstKey_some hf).1

/-- LD Vx, K moves PC by one word if a key is pressed, and if none is it changes nothing. -/
theorem execLdVxK_moves {x : Nibble} {s t : State} (h : execLdVxK x s = .next t) :
    (Advanced s t ∧ ∃ k : Nibble, s.key k = true) ∨ (t = s ∧ ∀ k : Nibble, s.key k = false) := by
  cases hf : s.firstKey with
  | some k =>
    rw [execLdVxK_of_some hf] at h
    cases h
    exact .inl ⟨advanced_of_pc (by simp), k, (State.firstKey_some hf).1⟩
  | none =>
    rw [execLdVxK_of_none hf] at h
    cases h
    exact .inr ⟨rfl, State.firstKey_none.1 hf⟩

/-- The word of Fx0A (R74). -/
theorem decodeWord_Fx0A (x : Nibble) : decodeWord (wordOfBytes (0xF0#8 ||| x.setWidth 8) 0x0A#8) = .ldVxK x := by
  have hword : wordOfBytes (0xF0#8 ||| x.setWidth 8) 0x0A#8 = encode (.ldVxK x) := by
    revert x; decide
  rw [hword, decodeWord_encode rfl]

/-- Settles O45: RET, CALL and the jumps by their target, the skips by their condition, LD Vx, K by the keys, and every
other one because it ends by `advance`. -/
theorem pcPolicy : Obligations.PcPolicy := by
  intro i s t h
  cases i with
  | jp nnn => cases h; exact zextAddr_toNat nnn
  | call nnn => obtain ⟨_, rfl⟩ := execCall_next_iff.1 h; exact zextAddr_toNat nnn
  | ret _ =>
    intro k hk
    obtain ⟨_, rfl⟩ := execRet_next_iff.1 h
    rw [State.jump_pc, State.top_eq hk, BitVec.toNat_add]
    rfl
  | jpV0 nnn =>
    cases h
    show (zextAddr nnn + zextByte (s.reg 0)).toNat = _
    rw [BitVec.toNat_add, zextAddr_toNat, zextByte_toNat]
  | seImm _ _ | seReg _ _ _ => cases h; exact s.skipIf_moves beq_iff_eq
  | sneImm _ _ | sneReg _ _ _ => cases h; exact s.skipIf_moves bne_iff_ne
  | skp _ => intro k hk; rw [skipOnKey_next h hk]; exact s.skipIf_moves beq_iff_eq
  | sknp _ =>
    intro k hk
    rw [skipOnKey_next h hk, ← ite_not]
    exact s.skipIf_moves (by simp)
  | ldVxK _ => exact execLdVxK_moves h
  | drw _ _ _ | ldB _ | ldMemVx _ | ldVxMem _ => rw [State.eq_of_checked_next h]; exact advanced_of_pc (by simp)
  | _ => cases h; exact advanced_of_pc (by simp)

/-- Settles O24: UNKNOWN ends by `advance` alone. -/
theorem unknownIsNoOperation : Obligations.UnknownIsNoOperation := by
  intro op u s h
  rw [h]
  exact ⟨s.advance, rfl, advanced_of_pc s.advance_pc, by simp⟩

/-! ### Waiting for a key (R95) -/

theorem State.stepEvent_of_coreStep_next {s t : State} (h : s.coreStep = .next t) : s.stepEvent = .next t := by
  rw [State.stepEvent, h, State.conclude]

section
variable {s : State} {x : Nibble} (hpc : s.pc.toNat ≤ 0x0FFE) (hhi : s.readMem s.pc.toNat = 0xF0#8 ||| x.setWidth 8)
  (hlo : s.readMem (s.pc.toNat + 1) = 0x0A#8)
include hpc hhi hlo

theorem State.coreStep_Fx0A : s.coreStep = execLdVxK x s := by
  rw [State.coreStep, State.fetch_of_le hpc, hhi, hlo]
  exact congrArg (exec · s) (decodeWord_Fx0A x)

theorem State.waiting_Fx0A : s.waiting = s.firstKey.isNone := by
  simp only [State.waiting, State.fetch_of_le hpc, hhi, hlo, decodeWord_Fx0A]

/-- R156: the key pressed while no other is held ends the wait, and is released. -/
theorem State.stepEvent_setKey_Fx0A (k : Nibble) (hkeys : ∀ j : Nibble, s.key j = false) :
    (s.setKey k true).stepEvent = .next (((s.setKey k true).setReg x (k.setWidth 8)).setKey k false).advance :=
  State.stepEvent_of_coreStep_next <|
    (State.coreStep_Fx0A (s := s.setKey k true) hpc hhi hlo).trans (execLdVxK_of_some (State.firstKey_setKey_true k hkeys))

end

/-- Settles O15: with no key found, LD Vx, K answers its own state, and that is the port's `WAIT`. -/
theorem waitingStepChangesNothing : Obligations.WaitingStepChangesNothing := by
  intro s x hpc hhi hlo hkeys
  have hnone := State.firstKey_none.2 hkeys
  have hcore : s.coreStep = .next s := (State.coreStep_Fx0A hpc hhi hlo).trans (execLdVxK_of_none hnone)
  have hwait : s.waiting = true := by rw [State.waiting_Fx0A hpc hhi hlo, hnone]; rfl
  exact ⟨State.stepEvent_of_coreStep_next hcore, by simp [State.outcomePort, hcore, hwait]⟩

@[simp] theorem State.drivenBy_pc (s : State) (a : List Event) (b : Driver) : (s.drivenBy a b).pc = s.pc := rfl

@[simp] theorem State.drivenBy_reg (s : State) (a : List Event) (b : Driver) (r : Nibble) :
    (s.drivenBy a b).reg r = s.reg r := rfl

@[simp] theorem State.drivenBy_key (s : State) (a : List Event) (b : Driver) (k : Nibble) :
    (s.drivenBy a b).key k = s.key k := rfl

/-- Another schedule under the same driver is inside a frame that lists the schedule. -/
@[simp] theorem keepsAllBut_drivenBy {L : List Part} {s t : State} (hL : .schedule ∈ L) (later : List Event) :
    KeepsAllBut L s (t.drivenBy later t.driver) ↔ KeepsAllBut L s t :=
  forall₂_congr fun p hp => by
    cases p with
    | schedule => exact absurd hL hp
    | _ => exact Iff.rfl

/-- Settles O16: the key set is the only one pressed, so the `Step` finds it, takes it and moves on. -/
theorem keyPressEndsWait : Obligations.KeyPressEndsWait := by
  intro s x k later hs hpc hhi hlo hkeys
  have hset : step s = .next ((s.drivenBy (.step :: later) s.driver).setKey k true) :=
    (nextEventIsTaken s).1 _ _ hs
  have htaken : step ((s.drivenBy (.step :: later) s.driver).setKey k true) = _ :=
    (step_eq_stepEvent (.inr ⟨later, rfl, rfl⟩)).trans
      (State.stepEvent_setKey_Fx0A (s := s.drivenBy later s.driver) hpc hhi hlo k hkeys)
  refine ⟨_, _, hset, htaken, rfl, ?_, advanced_of_pc (by simp), by simp [hkeys], fun r hr => ?_, by simp⟩
  · have hk : k.toNat < 256 := by omega
    simpa using hk
  · simp [List.ne_of_not_mem_cons hr]

end Sys2Proof.Machine

/-!
SUPPORT. Flow control (spec/41_flow_control.md): the rows of the opcode table that fix a category or a low byte, what CALL and
RET do where they go on, and what a run of calls and a run of returns leave on the stack (R100, R102).
-/

namespace Sys2Proof.Machine

open Sys2Proof

/-! ### Rows of the opcode table (spec/30_encoding.md R74) -/

/-- A row that fixes the category alone. -/
theorem encodedAs_of_category {fixed : Word} {variant : Word → Instr}
    (h : ∀ op, fieldC op = fieldC fixed → decodeWord op = variant op) : EncodedAs fixed 0xF000 variant :=
  fun op hop => h op (extractLsb'_eq_of_and_eq hop rfl)

/-- A row that fixes the category and the low byte. -/
theorem encodedAs_of_lowByte {fixed : Word} {variant : Word → Instr}
    (h : ∀ op, fieldC op = fieldC fixed → fieldKK op = fieldKK fixed → decodeWord op = variant op) :
    EncodedAs fixed 0xF0FF variant :=
  fun op hop => h op (extractLsb'_eq_of_and_eq hop rfl) (extractLsb'_eq_of_and_eq hop rfl)

/-! ### Frames, put together -/

section
variable {L L' : List Part} {p : Part} {s t u : State}

theorem Part.Same.trans (h : p.Same s t) (h' : p.Same t u) : p.Same s u := by
  cases p with
  | params => exact ⟨h'.1.trans h.1, h'.2.trans h.2⟩
  | v | stack | keys | mem => exact fun k => (h' k).trans (h k)
  | fb => exact fun x y => (h' x y).trans (h x y)
  | _ => exact Eq.trans h' h

theorem KeepsAllBut.trans (h : KeepsAllBut L s t) (h' : KeepsAllBut L t u) : KeepsAllBut L s u :=
  fun q hq => (h q hq).trans (h' q hq)

theorem KeepsAllBut.mono (h : KeepsAllBut L s t) (hsub : L ⊆ L') : KeepsAllBut L' s t :=
  fun q hq => h q fun hL => hq (hsub hL)

/-- A listed part that has its old value again need not be listed. -/
theorem KeepsAllBut.of_cons (h : KeepsAllBut (p :: L) s t) (hp : p.Same s t) : KeepsAllBut L s t := by
  intro q hq
  by_cases hqp : q = p
  · exact hqp ▸ hp
  · exact h q (by simp [hqp, hq])

end

/-! ### CALL and RET where they go on, and where they fault -/

theorem exec_call_of_lt (nnn : Addr) {s : State} (h : s.sp.toNat < 16) :
    exec (.call nnn) s = .next ((s.push s.pc h).jump (zextAddr nnn)) :=
  execCall_next_iff.2 ⟨h, rfl⟩

theorem exec_call_of_full (nnn : Addr) {s : State} (h : s.sp.toNat = 16) :
    exec (.call nnn) s = .fault (.stackOverflow s.pc) := by
  have h16 : s.sp = 16 := BitVec.eq_of_toNat_eq h
  rw [exec, execCall, if_pos h16, raise]

theorem exec_ret_of_pos (z : Nibble) {s : State} {k : Fin 16} (hk : s.sp.toNat = k.val + 1) :
    exec (.ret z) s = .next (s.pop.jump (s.stack[k] + 2)) :=
  execRet_next_iff.2 ⟨by omega, by rw [State.top_eq hk]⟩

theorem exec_ret_of_empty (z : Nibble) {s : State} (h : s.sp.toNat = 0) :
    exec (.ret z) s = .fault (.stackUnderflow s.pc) := by
  have h0 : s.sp = 0 := BitVec.eq_of_toNat_eq h
  rw [exec, execRet, if_pos h0, raise]

theorem State.push_sp_toNat {s : State} (a : Word) (h : s.sp.toNat < 16) : (s.push a h).sp.toNat = s.sp.toNat + 1 := by
  rw [State.push_sp]; bv_omega

theorem State.pop_sp_toNat {s : State} {n : Nat} (h : s.sp.toNat = n + 1) : s.pop.sp.toNat = n := by
  rw [State.pop_sp]; bv_omega

/-- A push writes the entry at SP alone. -/
theorem State.push_stack_getElem {s : State} (a : Word) (h : s.sp.toNat < 16) (k : Fin 16) :
    (s.push a h).stack[k] = if k.val = s.sp.toNat then a else s.stack[k] := by
  simp [Vector.getElem_set, eq_comm]

/-! ### The stack law (R100) -/

theorem callAll_cons (nnn : Addr) (rest : List Addr) {s : State} (h : s.sp.toNat < 16) :
    callAll (nnn :: rest) s = callAll rest ((s.push s.pc h).jump (zextAddr nnn)) := by
  rw [callAll, exec_call_of_lt nnn h]

theorem returnAll_succ (n : Nat) {s : State} {k : Fin 16} (hk : s.sp.toNat = k.val + 1) :
    returnAll (n + 1) s = returnAll n (s.pop.jump (s.stack[k] + 2)) := by
  rw [returnAll, exec_ret_of_pos 0 hk]

/-- Calls that fit raise SP by their number and leave the entries in use. -/
theorem callAll_next (targets : List Addr) {s : State} (h : s.sp.toNat + targets.length ≤ 16) :
    ∃ t, callAll targets s = .next t ∧ t.sp.toNat = s.sp.toNat + targets.length ∧
      (∀ k : Fin 16, k.val < s.sp.toNat → t.stack[k] = s.stack[k]) ∧ KeepsAllBut [.sp, .stack, .pc] s t := by
  induction targets generalizing s with
  | nil => exact ⟨s, rfl, rfl, fun _ _ => rfl, .refl _ s⟩
  | cons nnn rest ih =>
    rw [List.length_cons] at h ⊢
    have hlt : s.sp.toNat < 16 := by omega
    have hsp := State.push_sp_toNat s.pc hlt
    obtain ⟨t, ht, htsp, hentries, hframe⟩ :=
      ih (s := (s.push s.pc hlt).jump (zextAddr nnn)) (by rw [State.jump_sp]; omega)
    rw [State.jump_sp] at htsp hentries
    refine ⟨t, (callAll_cons nnn rest hlt).trans ht, by omega, fun k hk => ?_, .trans (by simp) hframe⟩
    rw [hentries k (by omega), State.jump_stack, State.push_stack_getElem, if_neg (by omega)]

/-- The last of `n + 1` returns pops the entry `n` below the top, and resumes at the word after that entry. -/
theorem returnAll_next (n : Nat) {s : State} {k : Fin 16} (hk : s.sp.toNat = k.val + (n + 1)) (h : s.sp.toNat ≤ 16) :
    ∃ u, returnAll (n + 1) s = .next u ∧ u.sp.toNat = k.val ∧ u.pc = s.stack[k] + 2 ∧
      KeepsAllBut [.sp, .pc] s u := by
  induction n generalizing s with
  | zero => exact ⟨s.pop.jump (s.stack[k] + 2), returnAll_succ 0 hk, State.pop_sp_toNat hk, rfl, by simp⟩
  | succ n ih =>
    have htop : s.sp.toNat = (⟨k.val + (n + 1), by omega⟩ : Fin 16).val + 1 := hk
    have hsp := State.pop_sp_toNat htop
    obtain ⟨u, hu, husp, hupc, hframe⟩ :=
      ih (s := s.pop.jump (s.stack[k.val + (n + 1)] + 2)) hsp (by rw [State.jump_sp]; omega)
    exact ⟨u, (returnAll_succ (n + 1) htop).trans hu, husp, hupc, .trans (by simp) hframe⟩

/-- As many returns as calls bring SP back: the first call pushes its address at SP, the calls after it leave that entry,
and the last return pops it. -/
theorem returnAll_callAll (first : Addr) (others : List Addr) {s : State}
    (h : s.sp.toNat + (others.length + 1) ≤ 16) :
    ∃ t u, callAll (first :: others) s = .next t ∧ returnAll (others.length + 1) t = .next u ∧
      u.sp = s.sp ∧ Advanced s u ∧ KeepsAllBut [.stack, .pc] s u := by
  have hlt : s.sp.toNat < 16 := by omega
  have hsp := State.push_sp_toNat s.pc hlt
  obtain ⟨t, ht, htsp, hentries, hcalls⟩ :=
    callAll_next others (s := (s.push s.pc hlt).jump (zextAddr first)) (by rw [State.jump_sp]; omega)
  rw [State.jump_sp] at htsp hentries
  obtain ⟨k, hk⟩ : ∃ k : Fin 16, k.val = s.sp.toNat := ⟨⟨s.sp.toNat, hlt⟩, rfl⟩
  have hentry : t.stack[k] = s.pc := by
    rw [hentries k (by omega), State.jump_stack, State.push_stack_getElem, if_pos hk]
  obtain ⟨u, hu, husp, hupc, hreturns⟩ := returnAll_next others.length (s := t) (k := k) (by omega) (by omega)
  have hback : u.sp = s.sp := BitVec.eq_of_toNat_eq (husp.trans hk)
  have hframe : KeepsAllBut [.sp, .stack, .pc] s u :=
    (KeepsAllBut.trans (by simp) hcalls).trans (hreturns.mono (by simp))
  exact ⟨t, u, (callAll_cons first others hlt).trans ht, hu, hback, advanced_of_pc (by rw [hupc, hentry]),
    hframe.of_cons hback⟩

/-! ### The obligations of spec/41_flow_control.md -/

/-- Settles O22: the two ends of the stack are `exec_ret_of_empty` and `exec_ret_of_pos`, the law is
`returnAll_callAll`. -/
theorem returnResumesAfterCall : Obligations.ReturnResumesAfterCall := by
  refine ⟨encodedAs_of_lowByte fun op hc hkk => ?_, fun z s => ⟨exec_ret_of_empty z, fun k hk => ?_⟩,
    fun first others s => returnAll_callAll first others⟩
  · rw [decodeWord, hc]
    exact (if_neg (by rw [hkk]; decide)).trans (if_pos hkk)
  · exact ⟨_, exec_ret_of_pos z hk, State.pop_sp_toNat hk, by rw [State.jump_pc, BitVec.toNat_add]; rfl, by simp⟩

/-- Settles O4: twelve closed runs of the decoder. -/
theorem specWordsDecode : Obligations.SpecWordsDecode := by
  simp only [Obligations.SpecWordsDecode, decode_pair, Except.ok.injEq, Prod.mk.injEq, and_true]
  decide

/-- Settles O20: each jump is one update of PC, to its target. -/
theorem jumpsSetPcAlone : Obligations.JumpsSetPcAlone := by
  refine ⟨encodedAs_of_category fun op hc => ?_, encodedAs_of_category fun op hc => ?_, fun nnn s => ⟨?_, ?_⟩⟩
  · rw [decodeWord, hc]
    rfl
  · rw [decodeWord, hc]
    rfl
  · exact ⟨s.jump (zextAddr nnn), rfl, zextAddr_toNat nnn, by simp⟩
  · refine ⟨s.jump (zextAddr nnn + zextByte (s.reg 0)), rfl, ?_, by simp⟩
    rw [State.jump_pc, BitVec.toNat_add, zextAddr_toNat, zextByte_toNat]

/-- Settles O21: with room for an entry CALL is a push of PC and a jump, and with none it is the fault. -/
theorem callPushesItsAddress : Obligations.CallPushesItsAddress := by
  refine ⟨encodedAs_of_category fun op hc => ?_, fun nnn s => ⟨exec_call_of_full nnn, fun h => ?_⟩⟩
  · rw [decodeWord, hc]
    rfl
  · exact ⟨_, exec_call_of_lt nnn h, State.push_sp_toNat s.pc h, zextAddr_toNat nnn,
      State.push_stack_getElem s.pc h, by simp⟩

end Sys2Proof.Machine

/-!
SUPPORT. Skips (spec/42_skips.md): the one form of a skip that goes on, for a condition and for its negation (R110 to
R113), and what a key skip does where Vx names a key and where it names none (R116).
-/

namespace Sys2Proof.Machine

open Sys2Proof

/-! ### A skip that goes on -/

section
variable {s : State} {r : StepResult} {c : Bool} {p : Prop} [Decidable p]

/-- A skip taken where `p` holds: one update of PC, so it keeps every other part. -/
theorem next_skipIf_of_iff (hr : r = .next (s.skipIf c)) (hc : c = true ↔ p) :
    ∃ t, r = .next t ∧ KeepsAllBut [.pc] s t ∧ if p then Skipped s t else Advanced s t :=
  ⟨s.skipIf c, hr, by simp, s.skipIf_moves hc⟩

/-- A skip taken where `p` fails. -/
theorem next_skipIf_of_iff_not (hr : r = .next (s.skipIf c)) (hc : c = true ↔ ¬p) :
    ∃ t, r = .next t ∧ KeepsAllBut [.pc] s t ∧ if p then Advanced s t else Skipped s t := by
  simpa only [ite_not] using next_skipIf_of_iff hr hc

end

/-! ### The key Vx names (R116) -/

theorem skipOnKey_of_key {x k : Nibble} {s : State} (wanted : Bool) (hk : (s.reg x).toNat = k.toNat) :
    skipOnKey x wanted s = .next (s.skipIf (s.key k == wanted)) := by
  rcases skipOnKey_cases x wanted s with ⟨-, h⟩ | ⟨hgt, -⟩
  · rw [h, ← skipOnKey_next h hk.symm]
  · omega

theorem skipOnKey_of_gt {x : Nibble} {s : State} (wanted : Bool) (hgt : 15 < (s.reg x).toNat) :
    skipOnKey x wanted s = .fault (.keyIndex (BitVec.ofNat 16 (s.reg x).toNat)) := by
  rcases skipOnKey_cases x wanted s with ⟨hle, -⟩ | ⟨-, h⟩
  · omega
  · rw [h, zextByte, BitVec.ofNat_toNat]

/-! ### The obligations of spec/42_skips.md -/

/-- Settles O25: each of the four always goes on, and two bytes are equal where their unsigned values are. -/
theorem registerSkips : Obligations.RegisterSkips := by
  have hbeq {a b : Byte} : (a == b) = true ↔ a.toNat = b.toNat := beq_iff_eq.trans BitVec.toNat_inj.symm
  have hbne {a b : Byte} : (a != b) = true ↔ ¬a.toNat = b.toNat := bne_iff_ne.trans BitVec.toNat_inj.symm.not
  refine ⟨encodedAs_of_category fun op hc => ?_, encodedAs_of_category fun op hc => ?_,
    encodedAs_of_category fun op hc => ?_, encodedAs_of_category fun op hc => ?_, fun x y z kk s =>
      ⟨next_skipIf_of_iff rfl hbeq, next_skipIf_of_iff_not rfl hbne, next_skipIf_of_iff rfl hbeq,
        next_skipIf_of_iff_not rfl hbne⟩⟩
  all_goals
    rw [decodeWord, hc]
    rfl

/-- Settles O26: `skipOnKey` with the flag wanted set for SKP and clear for SKNP; the update of PC clears no key. -/
theorem keySkips : Obligations.KeySkips := by
  refine ⟨encodedAs_of_lowByte fun op hc hkk => ?_, encodedAs_of_lowByte fun op hc hkk => ?_, fun x s =>
    ⟨fun k hk => ⟨?_, ?_⟩, fun hgt => ⟨skipOnKey_of_gt true hgt, skipOnKey_of_gt false hgt⟩⟩⟩
  · rw [decodeWord, hc]
    exact if_pos hkk
  · rw [decodeWord, hc]
    exact (if_neg (by rw [hkk]; decide)).trans (if_pos hkk)
  · exact next_skipIf_of_iff (skipOnKey_of_key true hk) beq_iff_eq
  · exact next_skipIf_of_iff_not (skipOnKey_of_key false hk) (by simp)

end Sys2Proof.Machine

/-!
SUPPORT. Constants, the index register and RND (spec/43_load_immediate.md, spec/47_index_memory.md R165, R166): the one form
of an instruction that writes one register or I and moves on, and that no instruction but RND reads the draw count (R123).
-/

namespace Sys2Proof.Machine

open Sys2Proof

/-! ### Rows of category 0xF (spec/30_encoding.md R74) -/

/-- A row of category 0xF, which its low byte selects. -/
theorem encodedAs_of_decodeF {fixed : Word} {variant : Word → Instr} (hfixed : fieldC fixed = 0xF#4)
    (h : ∀ op, fieldKK op = fieldKK fixed → decodeF op = variant op) : EncodedAs fixed 0xF0FF variant :=
  encodedAs_of_lowByte fun op hc hkk => by
    rw [decodeWord, hc, hfixed]
    exact h op hkk

/-! ### One write, then the next word -/

theorem State.advance_advanced {s u : State} (hpc : u.pc = s.pc) : Advanced s u.advance :=
  advanced_of_pc (congrArg (· + 2) hpc)

theorem State.setReg_keeps_others (s : State) (x : Nibble) (b : Byte) : RegsKeptBut [x] s (s.setReg x b) := by
  intro r hr
  rw [State.reg_setReg, if_neg (by simpa using hr)]

section
variable {s : State} {r : StepResult}

/-- One write of Vx and a move to the next word: no other register changes, VF neither unless it is Vx. -/
theorem next_setReg_advance {x : Nibble} {b : Byte} (hr : r = .next (s.setReg x b).advance) :
    ∃ t, r = .next t ∧ t.reg x = b ∧ Advanced s t ∧ RegsKeptBut [x] s t ∧ KeepsAllBut [.v, .pc] s t :=
  ⟨_, hr, by simp, State.advance_advanced rfl, s.setReg_keeps_others x b, by simp⟩

/-- One write of I and a move to the next word: no register changes. -/
theorem next_setI_advance {a : Word} {n : Nat} (hr : r = .next (s.setI a).advance) (ha : a.toNat = n) :
    ∃ t, r = .next t ∧ t.i.toNat = n ∧ Advanced s t ∧ KeepsAllBut [.i, .pc] s t :=
  ⟨_, hr, ha, State.advance_advanced rfl, by simp⟩

end

/-- Five bytes a glyph: the largest start is 5 * 255, so the product does not wrap (R166). -/
theorem five_mul_zextByte_toNat (b : Byte) : (5 * zextByte b).toNat = 5 * b.toNat := by
  have hb := b.isLt
  rw [BitVec.toNat_mul, zextByte_toNat]
  exact Nat.mod_eq_of_lt (by show 5 * b.toNat < 65536; omega)

/-! ### The draw count is not read (R123) -/

theorem State.skipIf_with_draws (s : State) (c : Bool) (d : Nat) :
    State.skipIf { s with draws := d } c = { s.skipIf c with draws := d } := by
  simp only [State.skipIf_eq]
  rfl

theorem skipOnKey_with_draws {x : Nibble} {wanted : Bool} {s t : State} (d : Nat)
    (h : skipOnKey x wanted s = .next t) : skipOnKey x wanted { s with draws := d } = .next { t with draws := d } := by
  rcases skipOnKey_cases x wanted s with ⟨hle, e⟩ | ⟨-, e⟩ <;> rw [e] at h <;> cases h
  have hkey : (s.reg x).toNat = ((s.reg x).setWidth 4).toNat := by rw [BitVec.toNat_setWidth]; omega
  rw [← State.skipIf_with_draws]
  exact skipOnKey_of_key (s := { s with draws := d }) wanted hkey

theorem execLdVxK_with_draws {x : Nibble} {s t : State} (d : Nat) (h : execLdVxK x s = .next t) :
    execLdVxK x { s with draws := d } = .next { t with draws := d } := by
  cases hk : s.firstKey with
  | some k => rw [execLdVxK_of_some hk] at h; cases h; exact execLdVxK_of_some (s := { s with draws := d }) hk
  | none => rw [execLdVxK_of_none hk] at h; cases h; exact execLdVxK_of_none (s := { s with draws := d }) hk

/-! ### The obligations of spec/43_load_immediate.md -/

/-- Settles O30: what lets an instruction go on, and what it then writes, is read from other parts of the state. -/
theorem randomByteIgnoredByOthers : Obligations.RandomByteIgnoredByOthers := by
  intro i s t d hne h
  cases i with
  | rnd x kk => exact absurd rfl (hne x kk)
  | ret _ => obtain ⟨hsp, rfl⟩ := execRet_next_iff.1 h; exact execRet_next_iff.2 ⟨hsp, rfl⟩
  | call _ => obtain ⟨hsp, rfl⟩ := execCall_next_iff.1 h; exact execCall_next_iff.2 ⟨hsp, rfl⟩
  | drw _ _ _ | ldB _ | ldMemVx _ | ldVxMem _ =>
    obtain ⟨hrange, rfl⟩ := State.checked_next_iff.1 h
    exact State.checked_next_iff.2 ⟨hrange, rfl⟩
  | skp _ | sknp _ => exact skipOnKey_with_draws d h
  | ldVxK _ => exact execLdVxK_with_draws d h
  | seImm _ _ | sneImm _ _ | seReg _ _ _ | sneReg _ _ _ => cases h; exact congrArg _ (s.skipIf_with_draws _ d)
  | _ => cases h; rfl

/-- Settles O27: each writes Vx once, and a sum of bytes is one modulo 256. -/
theorem constantsToRegisters : Obligations.ConstantsToRegisters := by
  refine ⟨encodedAs_of_category fun op hc => ?_, encodedAs_of_category fun op hc => ?_, fun x kk s =>
    ⟨next_setReg_advance rfl, ?_⟩⟩
  · rw [decodeWord, hc]
    rfl
  · rw [decodeWord, hc]
    rfl
  · obtain ⟨t, hnext, hreg, hrest⟩ := next_setReg_advance (r := exec (.addImm x kk) s) rfl
    exact ⟨t, hnext, by rw [hreg, BitVec.toNat_add], hrest⟩

/-- Settles O28: each writes I once, with an address, a sum modulo 65536 or a product that does not wrap. -/
theorem indexRegisterWrites : Obligations.IndexRegisterWrites := by
  refine ⟨encodedAs_of_category fun op hc => ?_,
    encodedAs_of_decodeF rfl fun op (hkk : fieldKK op = 0x1E#8) => by simp [decodeF, hkk],
    encodedAs_of_decodeF rfl fun op (hkk : fieldKK op = 0x29#8) => by simp [decodeF, hkk], fun nnn x s =>
      ⟨next_setI_advance rfl (zextAddr_toNat nnn), next_setI_advance rfl ?_,
        next_setI_advance rfl (five_mul_zextByte_toNat (s.reg x))⟩⟩
  · rw [decodeWord, hc]
    rfl
  · rw [BitVec.toNat_add, zextByte_toNat]

/-- Settles O29: one write of Vx and one of the draw count. -/
theorem randomByteMasked : Obligations.RandomByteMasked := by
  refine ⟨encodedAs_of_category fun op hc => ?_, fun x kk s =>
    ⟨(s.setReg x (s.rnd &&& kk)).drawn.advance, rfl, ?_, rfl, State.advance_advanced rfl,
      s.setReg_keeps_others x _, by simp⟩⟩
  · rw [decodeWord, hc]
    rfl
  · simp [State.rnd]

end Sys2Proof.Machine

/-!
SUPPORT. The ALU (spec/44_alu.md): the rows of category 0x8, the bytes the flag computations give as numbers, and the one
form of an instruction that writes a result to Vx, then a flag to VF (R130).
-/

namespace Sys2Proof.Machine

open Sys2Proof

/-! ### Rows of category 0x8 (spec/30_encoding.md R74) -/

/-- A row of category 0x8, which its low nibble selects. -/
theorem encodedAs_of_decode8 {fixed : Word} {variant : Word → Instr} (hfixed : fieldC fixed = 0x8#4)
    (h : ∀ op, fieldN op = fieldN fixed → decode8 op = variant op) : EncodedAs fixed 0xF00F variant := by
  intro op hop
  have hc : fieldC op = 0x8#4 := (extractLsb'_eq_of_and_eq hop rfl).trans hfixed
  have hn : fieldN op = fieldN fixed := extractLsb'_eq_of_and_eq hop rfl
  rw [decodeWord, hc]
  exact h op hn

/-! ### Flags as numbers (R135 to R139) -/

theorem flagByte_toNat (c : Bool) : (flagByte c).toNat = c.toNat := by
  cases c <;> rfl

theorem flagByte_decide_toNat (p : Prop) [Decidable p] : (flagByte (decide p)).toNat = if p then 1 else 0 :=
  (flagByte_toNat _).trans (Bool.cond_decide p 1 0)

theorem flagByte_carry_toNat (a b : Byte) :
    (flagByte (carry a b)).toNat = if 255 < a.toNat + b.toNat then 1 else 0 :=
  flagByte_decide_toNat (255 < a.toNat + b.toNat)

theorem flagByte_notBorrow_toNat (a b : Byte) :
    (flagByte (notBorrow a b)).toNat = if b.toNat ≤ a.toNat then 1 else 0 :=
  flagByte_decide_toNat (b.toNat ≤ a.toNat)

/-- A bit of a byte, as a number, is the digit of its place. -/
theorem flagByte_getLsbD_toNat (a : Byte) (i : Nat) : (flagByte (a.getLsbD i)).toNat = a.toNat / 2 ^ i % 2 := by
  rw [flagByte_toNat, ← BitVec.testBit_toNat, Nat.toNat_testBit]

theorem flagByte_shrOut_toNat (a : Byte) : (flagByte (shrOut a)).toNat = a.toNat % 2 := by
  rw [shrOut, flagByte_getLsbD_toNat, pow_zero, Nat.div_one]

/-- Above bit 7 a byte has no more digits. -/
theorem flagByte_shlOut_toNat (a : Byte) : (flagByte (shlOut a)).toNat = a.toNat / 128 := by
  have ha := a.isLt
  rw [shlOut, flagByte_getLsbD_toNat]
  omega

/-! ### Results as numbers (R136 to R139) -/

theorem byte_sub_toNat (a b : Byte) : (a - b).toNat = (a.toNat + 256 - b.toNat) % 256 := by
  have hb := b.isLt
  rw [BitVec.toNat_sub]
  omega

theorem byte_shiftRight_one_toNat (a : Byte) : (a >>> 1).toNat = a.toNat / 2 := by
  rw [BitVec.toNat_ushiftRight, Nat.shiftRight_one]

theorem byte_shiftLeft_one_toNat (a : Byte) : (a <<< 1).toNat = 2 * a.toNat % 256 := by
  rw [BitVec.toNat_shiftLeft, Nat.shiftLeft_eq, mul_comm]

/-! ### A result to Vx, then a flag to VF (R130) -/

theorem State.setRegFlag_keeps_others (s : State) (x : Nibble) (b : Byte) (c : Bool) :
    RegsKeptBut [x, 0xF#4] s (s.setRegFlag x b c) := by
  intro r hr
  obtain ⟨hx, hf⟩ : r ≠ x ∧ r ≠ 0xF#4 := by simpa using hr
  rw [State.reg_setRegFlag, if_neg hf, if_neg hx]

/-- The two writes and a move to the next word: VF holds the flag even where it is Vx, as the flag is written last. -/
theorem next_setRegFlag_advance {s : State} {r : StepResult} {x : Nibble} {b : Byte} {c : Bool} {n f : Nat}
    (hr : r = .next (s.setRegFlag x b c).advance) (hb : b.toNat = n) (hc : (flagByte c).toNat = f) :
    ∃ t, r = .next t ∧ Advanced s t ∧ RegsKeptBut [x, 0xF#4] s t ∧ KeepsAllBut [.v, .pc] s t ∧
      (x ≠ 0xF#4 → (t.reg x).toNat = n) ∧ (t.reg 0xF#4).toNat = f := by
  refine ⟨_, hr, State.advance_advanced rfl, s.setRegFlag_keeps_others x b c, by simp, fun hx => ?_, ?_⟩
  · rw [State.advance_reg, State.reg_setRegFlag, if_neg hx, if_pos rfl, hb]
  · rw [State.advance_reg, State.reg_setRegFlag, if_pos rfl, hc]

/-! ### The obligations of spec/44_alu.md -/

/-- Settles O31: each of the four writes Vx once, and no flag. -/
theorem copyAndLogic : Obligations.CopyAndLogic := by
  refine ⟨encodedAs_of_decode8 rfl fun op hn => ?_, encodedAs_of_decode8 rfl fun op hn => ?_,
    encodedAs_of_decode8 rfl fun op hn => ?_, encodedAs_of_decode8 rfl fun op hn => ?_, fun x y s =>
      ⟨next_setReg_advance rfl, next_setReg_advance rfl, next_setReg_advance rfl, next_setReg_advance rfl⟩⟩
  all_goals
    rw [decode8, hn]
    rfl

/-- Settles O32: a sum of bytes is one modulo 256, and the flag is its carry. -/
theorem addSetsCarry : Obligations.AddSetsCarry := by
  refine ⟨encodedAs_of_decode8 rfl fun op hn => ?_, fun x y s =>
    next_setRegFlag_advance rfl (BitVec.toNat_add _ _) (flagByte_carry_toNat _ _)⟩
  rw [decode8, hn]
  rfl

/-- Settles O33: SUBN is SUB with its operands exchanged, in the difference and in the flag. -/
theorem subtractSetsNotBorrow : Obligations.SubtractSetsNotBorrow := by
  refine ⟨encodedAs_of_decode8 rfl fun op hn => ?_, encodedAs_of_decode8 rfl fun op hn => ?_, fun x y s =>
    ⟨next_setRegFlag_advance rfl (byte_sub_toNat _ _) (flagByte_notBorrow_toNat _ _),
      next_setRegFlag_advance rfl (byte_sub_toNat _ _) (flagByte_notBorrow_toNat _ _)⟩⟩
  all_goals
    rw [decode8, hn]
    rfl

/-- Settles O34: the results and the flags are of Vx alone; no shift reads its y. -/
theorem shiftsSetBitShiftedOut : Obligations.ShiftsSetBitShiftedOut := by
  refine ⟨encodedAs_of_decode8 rfl fun op hn => ?_, encodedAs_of_decode8 rfl fun op hn => ?_, fun x z s =>
    ⟨next_setRegFlag_advance rfl (byte_shiftRight_one_toNat _) (flagByte_shrOut_toNat _),
      next_setRegFlag_advance rfl (byte_shiftLeft_one_toNat _) (flagByte_shlOut_toNat _)⟩⟩
  all_goals
    rw [decode8, hn]
    rfl

end Sys2Proof.Machine

/-!
SUPPORT. The framebuffer (spec/45_draw.md): the one state DRW ends in, what each of its reads shows, and when a checked
access is in range.
-/

namespace Sys2Proof.Machine

open Sys2Proof

/-! ### Range checks of an access upward from I (spec/20_memory.md R57) -/

theorem State.checked_of_inside {s : State} {len : Nat} (t : State) (h : len = 0 ∨ s.i.toNat + len - 1 ≤ 0xFFF) :
    s.checked len t = .next t :=
  State.checked_next_iff.2 ⟨(s.inRange_iff len).2 h, rfl⟩

theorem State.checked_of_outside {s : State} {len : Nat} (t : State)
    (h : 1 ≤ len ∧ 0xFFF < s.i.toNat + len - 1) : s.checked len t = .fault (rangeFault s) := by
  rcases s.checked_cases len t with ⟨hin, -⟩ | ⟨-, hfault⟩
  · have := (s.inRange_iff len).1 hin
    omega
  · rw [hfault, lowestOut_eq_ofNat, rangeFault]

/-! ### The sprite's targets -/

/-- A sprite is the bytes at I: where I and memory are the same, so are its targets. -/
theorem spriteHits_congr {s t : State} (hi : t.i = s.i) (hmem : Part.mem.Same s t) {vx vy : Byte} {n : Nat}
    {px : Fin 64} {py : Fin 32} : SpriteHits t vx vy n px py ↔ SpriteHits s vx vy n px py := by
  simp only [SpriteHits, hi, hmem _]

/-! ### What DRW does (R146) -/

/-- The state in which DRW ends where its sprite lies inside memory. -/
def State.afterDraw (s : State) (x y n : Nibble) : State :=
  let drawn := s.drawSprite (s.reg x) (s.reg y) n.toNat
  ((s.setFb drawn.1).setFlag drawn.2).advance

theorem exec_drw (x y n : Nibble) (s : State) : exec (.drw x y n) s = s.checked n.toNat (s.afterDraw x y n) := rfl

theorem eq_afterDraw_of_next {x y n : Nibble} {s t : State} (h : exec (.drw x y n) s = .next t) :
    t = s.afterDraw x y n :=
  State.eq_of_checked_next (exec_drw x y n s ▸ h)

theorem State.afterDraw_keeps (s : State) (x y n : Nibble) : KeepsAllBut [.v, .fb, .pc] s (s.afterDraw x y n) := by
  simp [State.afterDraw]

theorem State.afterDraw_keeps_others (s : State) (x y n : Nibble) : RegsKeptBut [0xF#4] s (s.afterDraw x y n) := by
  intro r hr
  have hf : r ≠ 0xF#4 := by simpa using hr
  simp [State.afterDraw, hf]

/-- R146: of the pixels, exactly the targets change. -/
theorem State.afterDraw_pixel_ne_iff (s : State) (x y n : Nibble) (px : Fin 64) (py : Fin 32) :
    (s.afterDraw x y n).pixel px py ≠ s.pixel px py ↔ SpriteHits s (s.reg x) (s.reg y) n.toNat px py := by
  have hget : (s.afterDraw x y n).pixel px py = true ↔
      (s.pixel px py = true ↔ ¬SpriteHits s (s.reg x) (s.reg y) n.toNat px py) :=
    (drawSprite_spec s (s.reg x) (s.reg y) n.toNat n.isLt.le).1 px py
  rw [ne_eq, Bool.eq_iff_iff, hget]
  tauto

theorem State.afterDraw_flag (s : State) (x y n : Nibble) :
    (s.afterDraw x y n).reg 0xF#4 = flagByte (s.drawSprite (s.reg x) (s.reg y) n.toNat).2 := by
  simp [State.afterDraw]

/-- R146, R148: VF is 1 if a target was lit, else 0. -/
theorem State.afterDraw_flag_cases (s : State) (x y n : Nibble) :
    ((s.afterDraw x y n).reg 0xF#4 = 1#8 ∧
      ∃ px py, SpriteHits s (s.reg x) (s.reg y) n.toNat px py ∧ s.pixel px py = true) ∨
    ((s.afterDraw x y n).reg 0xF#4 = 0#8 ∧
      ∀ px py, SpriteHits s (s.reg x) (s.reg y) n.toNat px py → s.pixel px py = false) := by
  have hhit := (drawSprite_spec s (s.reg x) (s.reg y) n.toNat n.isLt.le).2
  rw [s.afterDraw_flag]
  cases hb : (s.drawSprite (s.reg x) (s.reg y) n.toNat).2 with
  | true => exact .inl ⟨rfl, hhit.1 hb⟩
  | false => exact .inr ⟨rfl, by simpa [hb] using hhit⟩

theorem State.afterDraw_flag_eq_one_iff (s : State) (x y n : Nibble) : (s.afterDraw x y n).reg 0xF#4 = 1#8 ↔
    ∃ px py, SpriteHits s (s.reg x) (s.reg y) n.toNat px py ∧ s.pixel px py = true := by
  rcases s.afterDraw_flag_cases x y n with ⟨hone, hlit⟩ | ⟨hzero, hdark⟩
  · exact iff_of_true hone hlit
  · refine iff_of_false (by rw [hzero]; decide) ?_
    rintro ⟨px, py, hhit, hlit⟩
    exact Bool.false_ne_true ((hdark px py hhit).symm.trans hlit)

theorem State.afterDraw_flag_of_dark {s : State} (x y n : Nibble) (hdark : ∀ px py, s.pixel px py = false) :
    (s.afterDraw x y n).reg 0xF#4 = 0#8 := by
  rcases s.afterDraw_flag_cases x y n with ⟨-, px, py, -, hlit⟩ | ⟨hzero, -⟩
  · exact absurd ((hdark px py).symm.trans hlit) Bool.false_ne_true
  · exact hzero

/-- R149: a draw after a draw has the first one's targets, if neither coordinate was VF with a changed flag. -/
theorem spriteHits_afterDraw {s : State} {x y n : Nibble} (hx : (s.afterDraw x y n).reg x = s.reg x)
    (hy : (s.afterDraw x y n).reg y = s.reg y) {px : Fin 64} {py : Fin 32} :
    SpriteHits (s.afterDraw x y n) ((s.afterDraw x y n).reg x) ((s.afterDraw x y n).reg y) n.toNat px py ↔
      SpriteHits s (s.reg x) (s.reg y) n.toNat px py := by
  rw [hx, hy]
  exact spriteHits_congr (s.afterDraw_keeps x y n .i (by simp)) (s.afterDraw_keeps x y n .mem (by simp))

/-- R149: a pixel that changes in both draws or in neither is as it was. -/
theorem eq_of_changed_iff_changed {a b c : Bool} : (a ≠ b ↔ b ≠ c) → a = c := by
  revert a b c
  decide

/-! ### The obligations of spec/45_draw.md -/

/-- Settles O36: range check, pixels and flag are the three facts about `State.afterDraw`. -/
theorem drawTogglesSprite : Obligations.DrawTogglesSprite := by
  refine ⟨encodedAs_of_category fun op hc => ?_, fun x y n s => ⟨State.checked_of_outside _, fun hin =>
    ⟨s.afterDraw x y n, State.checked_of_inside _ hin, State.advance_advanced rfl, s.afterDraw_keeps_others x y n,
      s.afterDraw_keeps x y n, s.afterDraw_pixel_ne_iff x y n, s.afterDraw_flag_cases x y n⟩⟩⟩
  rw [decodeWord, hc]
  rfl

/-- Settles O37: both draws have the same targets, so a pixel changes in both or in neither; and a dark screen holds no
lit target. -/
theorem drawTwiceRestores : Obligations.DrawTwiceRestores := by
  refine ⟨fun x y n s t u hst htu hx hy => ?_, fun x y n z s t u hst htu => ?_⟩
  · obtain rfl := eq_afterDraw_of_next hst
    obtain rfl := eq_afterDraw_of_next htu
    refine ⟨fun px py => ?_, ?_, ?_⟩
    · have hchange := ((s.afterDraw x y n).afterDraw_pixel_ne_iff x y n px py).trans
        ((spriteHits_afterDraw hx hy).trans (s.afterDraw_pixel_ne_iff x y n px py).symm)
      exact eq_of_changed_iff_changed hchange
    · exact ((s.afterDraw x y n).afterDraw_flag_cases x y n).symm.imp And.left And.left
    · simp only [State.afterDraw_flag_eq_one_iff, spriteHits_afterDraw hx hy]
  · cases hst
    obtain rfl := eq_afterDraw_of_next htu
    exact State.afterDraw_flag_of_dark x y n Pixels.get_dark

/-- Settles O35: CLS writes the dark framebuffer, and PC. -/
theorem clearScreenDarkens : Obligations.ClearScreenDarkens := by
  refine ⟨encodedAs_of_lowByte fun op hc hkk => ?_, fun z s =>
    ⟨(s.setFb Pixels.dark).advance, rfl, Pixels.get_dark, State.advance_advanced rfl, by simp⟩⟩
  rw [decodeWord, hc]
  exact if_pos hkk

end Sys2Proof.Machine

/-!
SUPPORT. Timers and keys (spec/46_timers_keys.md): a write of one timer and a move to the next word (R157, R158), and which key
LD Vx, K takes (R156).
-/

namespace Sys2Proof.Machine

open Sys2Proof

/-! ### One write of a timer, then the next word (R157, R158) -/

section
variable {s : State} {r : StepResult} {b : Byte}

theorem next_setDt_advance (hr : r = .next (s.setDt b).advance) :
    ∃ t, r = .next t ∧ t.dt = b ∧ Advanced s t ∧ KeepsAllBut [.dt, .pc] s t :=
  ⟨_, hr, rfl, State.advance_advanced rfl, by simp⟩

theorem next_setSt_advance (hr : r = .next (s.setSt b).advance) :
    ∃ t, r = .next t ∧ t.st = b ∧ Advanced s t ∧ KeepsAllBut [.st, .pc] s t :=
  ⟨_, hr, rfl, State.advance_advanced rfl, by simp⟩

end

/-! ### The key LD Vx, K takes (R156) -/

/-- No other key is found: the one found is pressed with every lower one up, so neither is below the other. -/
theorem State.firstKey_of_least {s : State} {k : Nibble} (hk : s.key k = true)
    (hlow : ∀ j : Nibble, j.toNat < k.toNat → s.key j = false) : s.firstKey = some k := by
  cases hf : s.firstKey with
  | none => simp [State.firstKey_none.1 hf k] at hk
  | some j =>
    obtain ⟨hj, hjlow⟩ := State.firstKey_some hf
    have hge : ¬j.toNat < k.toNat := fun hlt => by simp [hlow j hlt] at hj
    have hle : ¬k.toNat < j.toNat := fun hlt => by simp [hjlow k hlt] at hk
    exact congrArg some (BitVec.eq_of_toNat_eq (by omega))

theorem State.outcomePort_Fx0A {s : State} {x : Nibble} (hpc : s.pc.toNat ≤ 0x0FFE)
    (hhi : s.readMem s.pc.toNat = 0xF0#8 ||| x.setWidth 8) (hlo : s.readMem (s.pc.toNat + 1) = 0x0A#8) :
    s.outcomePort = some (if s.firstKey.isNone then .wait else .ok) := by
  rw [State.outcomePort, State.coreStep_Fx0A hpc hhi hlo, State.waiting_Fx0A hpc hhi hlo]
  cases hf : s.firstKey with
  | some k => rw [execLdVxK_of_some hf]
  | none => rw [execLdVxK_of_none hf]

/-! ### The obligations of spec/46_timers_keys.md -/

/-- Settles O38: each instruction is one write, of Vx, DT or ST, and a move to the next word. -/
theorem timerMoves : Obligations.TimerMoves :=
  ⟨encodedAs_of_decodeF rfl fun op (hkk : fieldKK op = 0x07#8) => by simp [decodeF, hkk],
    encodedAs_of_decodeF rfl fun op (hkk : fieldKK op = 0x15#8) => by simp [decodeF, hkk],
    encodedAs_of_decodeF rfl fun op (hkk : fieldKK op = 0x18#8) => by simp [decodeF, hkk], fun _ _ =>
      ⟨next_setReg_advance rfl, next_setDt_advance rfl, next_setSt_advance rfl⟩⟩

/-- Settles O39: the least pressed key is the one found, and none is found exactly if none is pressed. -/
theorem keyWaitTakesLeastKey : Obligations.KeyWaitTakesLeastKey := by
  refine ⟨encodedAs_of_decodeF rfl fun op (hkk : fieldKK op = 0x0A#8) => by simp [decodeF, hkk], fun x s =>
    ⟨fun k hk hlow => ?_, fun hnone => execLdVxK_of_none (State.firstKey_none.2 hnone), fun hpc hhi hlo => ?_⟩⟩
  · refine ⟨_, execLdVxK_of_some (State.firstKey_of_least hk hlow), ?_, by simp, fun j hj => by simp [hj],
      State.advance_advanced rfl, s.setReg_keeps_others x _, by simp⟩
    have hbyte : k.toNat < 256 := by omega
    simpa using hbyte
  · have hpressed : s.firstKey.isNone = true ↔ ¬∃ k : Nibble, s.key k = true := by
      simp [State.firstKey_none]
    rw [State.outcomePort_Fx0A hpc hhi hlo]
    simp only [hpressed, ite_not]

end Sys2Proof.Machine

/-!
SUPPORT. Memory instructions (spec/47_index_memory.md): what a run of stores leaves inside and outside itself, the digits
of a byte (R167), and where I stands after a transfer (R168).
-/

namespace Sys2Proof.Machine

open Sys2Proof

/-! ### A run of stores (spec/20_memory.md R61) -/

section
variable (s : State) {a : Nat} {bs : List Byte}

theorem State.readMem_storeBytes_add {k : Nat} (hk : k < bs.length) : (s.storeBytes a bs).readMem (a + k) = bs[k] := by
  rw [State.readMem_storeBytes, dif_pos (by omega)]
  simp only [Nat.add_sub_cancel_left]

theorem State.readMem_storeBytes_outside {n : Nat} (hn : n < a ∨ a + bs.length ≤ n) :
    (s.storeBytes a bs).readMem n = s.readMem n := by
  rw [State.readMem_storeBytes, dif_neg (by omega)]

end

/-! ### Digits and the index (R167, R168) -/

/-- The digits of a byte, stored: the hundreds are at most 2, the tens and ones at most 9, so each fits its byte. -/
theorem State.readMem_storeBytes_bcdDigits (s : State) (a : Nat) (b : Byte) :
    ((s.storeBytes a (bcdDigits b)).readMem a).toNat = b.toNat / 100 ∧
    ((s.storeBytes a (bcdDigits b)).readMem (a + 1)).toNat = b.toNat / 10 % 10 ∧
    ((s.storeBytes a (bcdDigits b)).readMem (a + 2)).toNat = b.toNat % 10 := by
  have hb := b.isLt
  simp [State.readMem_storeBytes, bcdDigits]
  omega

/-- I after a transfer is what `State.bumpI` leaves there. -/
theorem indexAfterTransfer_of_i {x : Nibble} {s t : State}
    (h : t.i = if s.ldstIncI then s.i + zextNibble x + 1 else s.i) : IndexAfterTransfer x s t := by
  rw [IndexAfterTransfer, h]
  split
  · rw [BitVec.toNat_add, BitVec.toNat_add, zextNibble_toNat, Nat.mod_add_mod]
    rfl
  · rfl

/-! ### The obligations of spec/47_index_memory.md -/

/-- Settles O41: a checked store of the three digits. -/
theorem bcdStoresThreeDigits : Obligations.BcdStoresThreeDigits := by
  refine ⟨encodedAs_of_decodeF rfl fun op (hkk : fieldKK op = 0x33#8) => by simp [decodeF, hkk], fun x s =>
    ⟨fun hout => State.checked_of_outside _ (by omega), fun hin => ?_⟩⟩
  obtain ⟨hhundreds, htens, hones⟩ := s.readMem_storeBytes_bcdDigits s.i.toNat (s.reg x)
  refine ⟨_, State.checked_of_inside _ (by omega), hhundreds, htens, hones, fun a ha => ?_, State.advance_advanced rfl,
    by simp⟩
  exact s.readMem_storeBytes_outside (ha.imp_right fun h => (h : s.i.toNat + 3 ≤ a))

/-- Settles O42: a checked store of V0 to Vx, then the move of I. -/
theorem registerDump : Obligations.RegisterDump := by
  refine ⟨encodedAs_of_decodeF rfl fun op (hkk : fieldKK op = 0x55#8) => by simp [decodeF, hkk], fun x s =>
    ⟨fun hout => State.checked_of_outside _ (by omega), fun hin => ?_⟩⟩
  have hnext : exec (.ldMemVx x) s = .next ((s.storeBytes s.i.toNat (s.regsUpTo x)).bumpI x).advance :=
    State.checked_of_inside _ (by omega)
  refine ⟨_, hnext, fun r hr => ldMemVx_readMem hnext hr, fun a ha => ?_, indexAfterTransfer_of_i rfl,
    State.advance_advanced rfl, by simp⟩
  exact s.readMem_storeBytes_outside (by rw [State.regsUpTo_length]; omega)

/-- Settles O43: a checked load of V0 to Vx, every byte from the I before it, then the move of I. -/
theorem registerLoad : Obligations.RegisterLoad :=
  ⟨encodedAs_of_decodeF rfl fun op (hkk : fieldKK op = 0x65#8) => by simp [decodeF, hkk], fun x s =>
    ⟨fun hout => State.checked_of_outside _ (by omega), fun hin =>
      ⟨((s.loadRegs x).bumpI x).advance, State.checked_of_inside _ (by omega), by simp,
        indexAfterTransfer_of_i rfl, State.advance_advanced rfl, by simp⟩⟩⟩

end Sys2Proof.Machine

/-!
SUPPORT. Faults (spec/60_exceptions.md): an instruction goes on exactly where the program respects its limits
(spec/70_reset_and_hazards.md R220), and elsewhere it raises the one fault the table of R181 gives it; what the outcome
port then shows (R184); and what a fault is read from, so that it recurs (R186).
-/

namespace Sys2Proof.Machine

open Sys2Proof

/-! ### The fault of an instruction (R181) -/

/-- The fault an instruction raises where the program does not respect its limits: the rows of R181, and log 8 for an SP
above 16. Of the variants in the catch-all only those that access memory upward from I have a limit. -/
def limitFault (i : Instr) (s : State) : Fault :=
  match i with
  | .ret _ => if s.sp.toNat = 0 then .stackUnderflow s.pc else .stackPointerIllegal s.sp
  | .call _ => if s.sp.toNat = 16 then .stackOverflow s.pc else .stackPointerIllegal s.sp
  | .skp x | .sknp x => .keyIndex (BitVec.ofNat 16 (s.reg x).toNat)
  | _ => rangeFault s

theorem skipOnKey_of_le {x : Nibble} {s : State} (wanted : Bool) (hle : (s.reg x).toNat ≤ 15) :
    ∃ t, skipOnKey x wanted s = .next t := by
  rcases skipOnKey_cases x wanted s with ⟨-, h⟩ | ⟨hgt, -⟩
  · exact ⟨_, h⟩
  · omega

/-- LD Vx, K never faults: it takes a key or waits (R156). -/
theorem execLdVxK_goes_on (x : Nibble) (s : State) : ∃ t, execLdVxK x s = .next t := by
  cases hf : s.firstKey with
  | some k => exact ⟨_, execLdVxK_of_some hf⟩
  | none => exact ⟨_, execLdVxK_of_none hf⟩

/-- R220: within its limits an instruction goes on. -/
theorem exec_next_of_respects {i : Instr} {s : State} (h : Respects i s) : ∃ t, exec i s = .next t := by
  cases i with
  | ret _ => exact ⟨_, execRet_next_iff.2 ⟨h, rfl⟩⟩
  | call nnn => exact ⟨_, exec_call_of_lt nnn h⟩
  | drw _ _ _ => exact ⟨_, State.checked_of_inside _ h⟩
  | ldB _ | ldMemVx _ | ldVxMem _ => exact ⟨_, State.checked_of_inside _ (.inr h)⟩
  | skp _ | sknp _ => exact skipOnKey_of_le _ h
  | ldVxK x => exact execLdVxK_goes_on x s
  | _ => exact ⟨_, rfl⟩

/-- R181: outside its limits an instruction raises its fault. -/
theorem exec_fault_of_not_respects {i : Instr} {s : State} (h : ¬Respects i s) :
    exec i s = .fault (limitFault i s) := by
  cases i with
  | ret z =>
    rw [limitFault]
    split
    · next h0 => exact exec_ret_of_empty z h0
    · next h0 => exact (illegalStackPointerStops 0 z s (by simp only [Respects] at h; omega)).2
  | call nnn =>
    rw [limitFault]
    split
    · next h16 => exact exec_call_of_full nnn h16
    · next h16 => exact (illegalStackPointerStops nnn 0 s (by simp only [Respects] at h; omega)).1
  | drw _ _ _ | ldB _ | ldMemVx _ | ldVxMem _ =>
    exact State.checked_of_outside _ (by simp only [Respects] at h; omega)
  | skp _ | sknp _ => exact skipOnKey_of_gt _ (Nat.lt_of_not_le h)
  | _ => exact absurd trivial h

theorem exec_fault_iff {i : Instr} {s : State} {f : Fault} :
    exec i s = .fault f ↔ ¬Respects i s ∧ f = limitFault i s := by
  by_cases h : Respects i s
  · obtain ⟨t, ht⟩ := exec_next_of_respects h
    simp [ht, h]
  · simp [exec_fault_of_not_respects h, h, eq_comm]

/-! ### The outcome port (R184) -/

section
variable {s : State}

theorem State.outcomePort_of_next {t : State} (h : s.coreStep = .next t) :
    s.outcomePort = some (if s.waiting then .wait else .ok) := by
  rw [State.outcomePort, h]

theorem State.outcomePort_of_fault {f : Fault} (h : s.coreStep = .fault f) : s.outcomePort = f.report := by
  rw [State.outcomePort, h]

/-- Only LD Vx, K waits. -/
theorem State.waiting_of_fetch {op : Word} (h : s.fetch = .ok op) (hne : ∀ x, decodeWord op ≠ .ldVxK x) :
    s.waiting = false := by
  cases hi : decodeWord op with
  | ldVxK x => exact absurd hi (hne x)
  | _ => simp only [State.waiting, h, hi]

/-- The port after any instruction but LD Vx, K. -/
theorem State.outcomePort_of_fetch {op : Word} {i : Instr} {p : Prop} [Decidable p] {o : PortOutcome}
    (hf : s.fetch = .ok op) (hi : decodeWord op = i) (hp : p ↔ ¬Respects i s)
    (ho : p → (limitFault i s).report = some o) (hne : ∀ x, i ≠ .ldVxK x) :
    s.outcomePort = some (if p then o else .ok) := by
  have hcore : s.coreStep = exec i s := by rw [State.coreStep, hf, ← hi]
  split
  · next h => rw [State.outcomePort_of_fault (hcore.trans (exec_fault_of_not_respects (hp.1 h))), ho h]
  · next h =>
    obtain ⟨t, ht⟩ := exec_next_of_respects (not_not.1 (hp.not.1 h))
    rw [State.outcomePort_of_next (hcore.trans ht), State.waiting_of_fetch hf (hi ▸ hne),
      if_neg Bool.false_ne_true]

theorem State.outcomePort_ldVxK {op : Word} {x : Nibble} (hf : s.fetch = .ok op) (hi : decodeWord op = .ldVxK x) :
    s.outcomePort = some (if s.firstKey.isNone then .wait else .ok) := by
  obtain ⟨t, ht⟩ := execLdVxK_goes_on x s
  have hcore : s.coreStep = .next t := by rw [State.coreStep, hf, ← ht, ← exec, ← hi]
  rw [State.outcomePort_of_next hcore, State.waiting, hf]
  simp only [hi]

end

/-! ### What a fault is read from (R186) -/

@[simp] theorem keepsAllBut_recordFault {L : List Part} {s t : State} (hL : .faults ∈ L) (f : Fault) :
    KeepsAllBut L s (t.recordFault f) ↔ KeepsAllBut L s t :=
  forall₂_congr fun p hp => by
    cases p with
    | faults => exact absurd hL hp
    | _ => exact Iff.rfl

section
variable {s t : State} (h : KeepsAllBut [.dt, .st, .keys, .faults, .schedule, .driver] s t)
include h

theorem State.fetch_congr : t.fetch = s.fetch := by
  have hpc : t.pc = s.pc := h .pc (by simp)
  have hmem : Part.mem.Same s t := h .mem (by simp)
  simp only [State.fetch, hpc, hmem _]

theorem respects_congr (i : Instr) : Respects i t ↔ Respects i s := by
  have hreg : Part.v.Same s t := h .v (by simp)
  have hi : t.i = s.i := h .i (by simp)
  have hsp : t.sp = s.sp := h .sp (by simp)
  cases i <;> simp only [Respects, hreg _, hi, hsp]

theorem limitFault_congr (i : Instr) : limitFault i t = limitFault i s := by
  have hreg : Part.v.Same s t := h .v (by simp)
  have hi : t.i = s.i := h .i (by simp)
  have hpc : t.pc = s.pc := h .pc (by simp)
  have hsp : t.sp = s.sp := h .sp (by simp)
  cases i <;> simp only [limitFault, rangeFault, hreg _, hi, hpc, hsp]

/-- A fault of the core depends on no timer, key or event to come, and on no fault before it. -/
theorem State.coreStep_fault_congr {f : Fault} (hf : s.coreStep = .fault f) : t.coreStep = .fault f := by
  have hfetch := State.fetch_congr h
  unfold State.coreStep at hf ⊢
  rw [hfetch]
  cases hop : s.fetch with
  | ok op =>
    rw [hop] at hf
    have hf : exec (decodeWord op) s = .fault f := hf
    rw [exec_fault_iff, ← respects_congr h, ← limitFault_congr h, ← exec_fault_iff] at hf
    exact hf
  | error g => rw [hop] at hf; exact hf

end

/-- R183: a `Step` that ends in a reported fault only puts it on record. -/
theorem State.stepEvent_of_coreStep_fault {s : State} {f : Fault} (h : s.coreStep = .fault f)
    (hf : f.isReported = true) : s.stepEvent = .next (s.recordFault f) := by
  rw [State.stepEvent, h, State.conclude, if_pos hf]

/-- A scheduled `Step` that faults is off the schedule, and nothing else but the record has changed. -/
theorem step_of_coreStep_fault {s : State} {f : Fault} {later : List Event} (h : s.coreStep = .fault f)
    (hf : f.isReported = true) (hs : s.schedule = .step :: later) :
    step s = .next ((s.drivenBy later s.driver).recordFault f) := by
  have hcore : (s.drivenBy later s.driver).coreStep = .fault f := State.coreStep_fault_congr (by simp) h
  exact (step_eq_stepEvent (.inr ⟨later, hs, rfl⟩)).trans (State.stepEvent_of_coreStep_fault hcore hf)

/-! ### The obligations of spec/60_exceptions.md, and R220 -/

/-- Settles O47: `exec_next_of_respects` and `exec_fault_of_not_respects`. -/
theorem completesExactlyWhenRespected : Obligations.CompletesExactlyWhenRespected :=
  fun _ _ => ⟨exec_next_of_respects, fun h => ⟨_, exec_fault_of_not_respects h⟩⟩

/-- Settles O46: `exec_fault_iff`, with the limits and the faults of each row as numbers. -/
theorem faultsAreTheTable : Obligations.FaultsAreTheTable := by
  intro i s f hsp
  rw [exec_fault_iff]
  cases i with
  | ret _ =>
    have hlimit : ¬(1 ≤ s.sp.toNat ∧ s.sp.toNat ≤ 16) ↔ s.sp.toNat = 0 := by omega
    simp +contextual [Respects, limitFault, hlimit]
  | call _ =>
    have hlimit : ¬s.sp.toNat < 16 ↔ s.sp.toNat = 16 := by omega
    simp +contextual [Respects, limitFault, hlimit]
  | drw _ _ n =>
    have hlimit : ¬(n.toNat = 0 ∨ s.i.toNat + n.toNat - 1 ≤ 0xFFF) ↔
        1 ≤ n.toNat ∧ 0xFFF < s.i.toNat + n.toNat - 1 := by omega
    simp only [Respects, limitFault, hlimit, and_assoc]
  | ldB _ | ldMemVx _ | ldVxMem _ | skp _ | sknp _ => simp only [Respects, limitFault, Nat.not_le]
  | _ => simp [Respects]

/-- Settles O48: past the end of memory the fetch faults; else the port shows what the fetched instruction answers. -/
theorem outcomePortReports : Obligations.OutcomePortReports := by
  refine ⟨⟨rfl, rfl, fun _ _ => rfl⟩, fun s op hsp hop => ?_⟩
  split
  · next hout => rw [State.outcomePort_of_fault ((fetchIsBigEndianOrFaults s).1 hout), Fault.report]
  · next hin =>
    have hf : s.fetch = .ok op := by
      rw [State.fetch_of_le (Nat.le_of_not_lt hin)]
      exact congrArg _ (BitVec.eq_of_toNat_eq ((wordOfBytes_toNat _ _).trans hop.symm))
    cases hi : decodeWord op with
    | drw x y n => exact State.outcomePort_of_fetch hf hi (by simp only [Respects]; omega) (fun _ => rfl) nofun
    | ret _ =>
      have hempty : s.sp = 0 ↔ s.sp.toNat = 0 := BitVec.toNat_inj.symm
      refine State.outcomePort_of_fetch hf hi ?_ (fun h => ?_) nofun
      · simp only [Respects, hempty]; omega
      · rw [limitFault, if_pos (hempty.1 h), Fault.report]
    | call _ =>
      have hfull : s.sp = 16 ↔ s.sp.toNat = 16 := BitVec.toNat_inj.symm
      refine State.outcomePort_of_fetch hf hi ?_ (fun h => ?_) nofun
      · simp only [Respects, hfull]; omega
      · rw [limitFault, if_pos (hfull.1 h), Fault.report]
    | ldB _ | ldMemVx _ | ldVxMem _ | skp _ | sknp _ =>
      exact State.outcomePort_of_fetch hf hi Nat.not_le.symm (fun _ => rfl) nofun
    | ldVxK x =>
      have hpressed : s.firstKey.isNone = true ↔ ¬∃ k : Nibble, s.key k = true := by simp [State.firstKey_none]
      simp only [State.outcomePort_ldVxK hf hi, hpressed, ite_not]
    | _ => exact State.outcomePort_of_fetch (p := False) (o := .ok) hf hi (by simp [Respects]) nofun nofun

/-- Settles O49: the fault is put on record, and then the schedule's next event is taken. -/
theorem faultIsNotFinal : Obligations.FaultIsNotFinal := by
  intro s f hcore hf
  refine ⟨⟨s.recordFault f, State.stepEvent_of_coreStep_fault hcore hf, rfl, by simp⟩, fun e later hs => ?_⟩
  have hafter : step ((s.drivenBy (e :: later) s.driver).recordFault f) =
      handle e ((s.drivenBy later s.driver).recordFault f) :=
    (nextEventIsTaken _).1 e later rfl
  refine ⟨_, step_of_coreStep_fault hcore hf hs, rfl, by simp, hafter, fun image he hlen => ?_⟩
  subst he
  exact ⟨_, hafter.trans (State.boot_next_iff.2 ⟨hlen, rfl⟩), rfl, rfl⟩

/-- Settles O50: none of the three events writes a part that a fault is read from. -/
theorem faultRecurs : Obligations.FaultRecurs := by
  intro e s t f he hf ht
  refine State.coreStep_fault_congr ?_ hf
  rcases he with rfl | rfl | ⟨k, b, rfl⟩
  · rcases State.stepEvent_next ht with hc | ⟨g, rfl⟩
    · rw [hf] at hc; cases hc
    · simp
  · cases ht; simp
  · cases ht; simp

end Sys2Proof.Machine

/-!
SUPPORT. Reset and hazards (spec/70_reset_and_hazards.md): the state a reset leaves, read part by part (R210, R213), and
that a free driver's steps are its events, one after another (R221).
-/

namespace Sys2Proof.Machine

open Sys2Proof

/-! ### A free driver (R221; log 4) -/

/-- Which driver is there makes no difference to an event, and it leaves it there. -/
theorem handle_with_driver (e : Event) (s : State) (d : Driver) :
    handle e { s with driver := d } = mapNext (fun u => { u with driver := d }) (handle e s) := by
  refine (handle_drivenBy e s s.schedule d).trans ?_
  cases he : handle e s with
  | next t => rw [← (handle_keeps_driver he).1]; rfl
  | fault f => rfl
  | refused r => rfl

theorem perform_with_driver (events : List Event) (s : State) (d : Driver) :
    perform events { s with driver := d } = mapNext (fun u => { u with driver := d }) (perform events s) := by
  induction events generalizing s with
  | nil => rfl
  | cons e rest ih =>
    rw [perform, perform, handle_with_driver]
    cases handle e s with
    | next t => exact ih t
    | fault f => rfl
    | refused r => rfl

theorem mapNext_mapNext (g g' : State → State) (r : StepResult) :
    mapNext g (mapNext g' r) = mapNext (fun u => g (g' u)) r := by
  cases r <;> rfl

/-- The events `n` to `n + k - 1` of the free driver. -/
def freeEvents (n k : Nat) : List Event := (List.range k).map fun j => Config.driver (n + j)

theorem freeEvents_succ (n k : Nat) : freeEvents n (k + 1) = Config.driver n :: freeEvents (n + 1) k := by
  simp [freeEvents, List.range_succ_eq_map, Function.comp_def, Nat.add_right_comm, Nat.add_assoc]

/-- With no event issued, each step takes the free driver's next event and counts it. -/
theorem runFor_free (k : Nat) {n : Nat} {s : State} (hs : s.schedule = []) (hd : s.driver = .free n) :
    runFor k s = mapNext (fun u => { u with driver := .free (n + k) }) (perform (freeEvents n k) s) := by
  induction k generalizing n s with
  | zero => exact congrArg (fun d => Host.Outcome.next { s with driver := d }) hd
  | succ k ih =>
    rw [runFor, (nextEventIsTaken s).2.2 n hs hd, handle_with_driver, freeEvents_succ, perform]
    cases he : handle (Config.driver n) s with
    | next t =>
      have hrest := ih (n := n + 1) (s := { t with driver := .free (n + 1) }) ((handle_keeps_driver he).1.trans hs) rfl
      rw [perform_with_driver, mapNext_mapNext, Nat.add_right_comm] at hrest
      exact hrest
    | fault f => rfl
    | refused r => rfl

/-- Settles O9: `runFor_free`, from reset on. -/
theorem freeDriverNeverEnds : Obligations.FreeDriverNeverEnds := by
  refine ⟨⟨rfl, rfl⟩, fun k n s hs hd => (runFor_free k hs hd).trans ?_⟩
  rw [freeEvents]
  cases perform ((List.range k).map fun j => Config.driver (n + j)) s <;> rfl

/-! ### Reset (R210, R213) -/

/-- After reset memory lists nothing, so every byte reads as FONT or zero (R38). -/
theorem State.afterReset_readMem (s : State) (a : Nat) : s.afterReset.readMem a = Memory.unlisted s.font a := rfl

/-- R213: the image lies byte for byte from 0x200 upward. -/
theorem State.load_readMem_inside (s : State) (image : List Byte) (k : Fin image.length) :
    (s.load image).readMem (0x200 + k.val) = image[k] :=
  s.readMem_storeBytes_add k.isLt

theorem State.load_readMem_outside (s : State) {image : List Byte} {a : Nat}
    (h : a < 0x200 ∨ 0x200 + image.length ≤ a) : (s.load image).readMem a = s.readMem a :=
  s.readMem_storeBytes_outside h

/-- Settles O14: memory is the image over what a reset leaves there, and every other part is as `resetState` has it. -/
theorem resetEventBoots : Obligations.ResetEventBoots := by
  intro s image later hs
  obtain ⟨hreg, hi, hpc, hsp, hstack, hdt, hst, hkey, hpixel, -⟩ := resetState
  have hstep : step s = ({ s with schedule := later } : State).boot image := (nextEventIsTaken s).1 _ _ hs
  refine ⟨fun hlen => ?_, fun hlen => ?_⟩
  · refine ⟨_, hstep.trans (State.boot_next_iff.2 ⟨hlen, rfl⟩), rfl, rfl, rfl, rfl, rfl, rfl, hreg, hi, hpc, hsp,
      hstack, hdt, hst, hkey, hpixel, fun a => ?_, State.load_readMem_inside _ image, fun a hlo _ hout => ?_⟩
    · rw [State.load_readMem_outside _ (.inl (by omega)), State.afterReset_readMem, Memory.unlisted, dif_pos a.isLt]
      rfl
    · rw [State.load_readMem_outside _ hout, State.afterReset_readMem, Memory.unlisted, dif_neg (Nat.not_lt.2 hlo)]
  · rw [hstep, State.boot, if_neg (Nat.not_le.2 hlen)]

end Sys2Proof.Machine
